-- ==== Sys2Proof/Word.lean ====
section
/-! DEFINITION. The block's two value types and the width tag (spec/00_scope.md R7, R9). -/

namespace Sys2Proof

/-- A `u8` bit pattern (R9). -/
abbrev Byte := BitVec 8

/-- A `u16` bit pattern (R9). -/
abbrev Word := BitVec 16

/-- The operand width tag: the `w` bit of an encoding, 0 for a byte and 1 for a word (R7, R25). -/
inductive Width where
  | byte
  | word
deriving DecidableEq, Repr

namespace Width

/-- `N = 8 + 8w`: the operand width in bits (spec/41_move.md, preamble). -/
@[reducible] def bits : Width → Nat
  | byte => 8
  | word => 16

/-- `1 + w`: the operand width in bytes (R58, R97). -/
def bytes : Width → Nat
  | byte => 1
  | word => 2

/-- A value of the width the tag names: a `u8` or a `u16` (R24, R96). -/
abbrev Val (w : Width) := BitVec w.bits

end Width

end Sys2Proof
end

