-- ==== Sys2Proof/Config.lean ====
section
/-! DEFINITION. The launch parameters of spec/00_scope.md R8 and the free value of an INERT memory read. -/

namespace Sys2Proof

/-- `FETCH_MODE` (R8): FOLLOW fetches at `ip`, LINEAR at `cursor` (R121). -/
inductive FetchMode where
  | follow
  | linear
deriving DecidableEq, Repr

/-- `MEMORY_MODEL` (R8): BACKED stores bytes, INERT drops writes and reads free values (R55, R56). -/
inductive MemoryModel where
  | backed
  | inert
deriving DecidableEq, Repr

/-- The parameters that are fixed for a launch (R8), less the stream and `MEM_INIT`. -/
structure LaunchConfig where
  /-- `MOV_WRITES_FLAGS`, OPEN in the spec. -/
  movWritesFlags : Bool
  /-- `FETCH_MODE`. -/
  fetchMode : FetchMode
  /-- `MEMORY_MODEL`. -/
  memoryModel : MemoryModel
  /-- `JZ_OPCODE`: byte 0 of the short jump. -/
  jzOpcode : Byte
deriving DecidableEq, Repr

namespace Config

/-- The default of `JZ_OPCODE` (R8): the spec's choice. -/
def defaultJzOpcode : Byte := 0x74#8

/-- The longest stream a launch may have (R40, R50). -/
def maxStreamLength : Nat := 0xFFFF

/-- The launch parameters of `State.reset`: the values R8 gives.
`MOV_WRITES_FLAGS` is OPEN there; DESIGN CHOICE (log entry 3, unsafe): the value R8 names for the reference. -/
def default : LaunchConfig :=
  { movWritesFlags := true, fetchMode := .follow, memoryModel := .backed, jzOpcode := defaultJzOpcode }

/-- The free value of the k-th draw (R55, R135: "an unconstrained n-byte value, chosen anew at every read").
It has no body, so nothing can be proved of its value; a byte draw is its low byte.
DESIGN CHOICE (log entry 5, safe). -/
opaque freeDraw : Nat → Word

end Config

end Sys2Proof
end

