-- ==== Sys2Proof/Syntax.lean ====
section
/-! DEFINITION. The instructions as data: the operand shapes of spec/30_encoding.md R90 to R97, and one
constructor for each row of spec/opcode_table.json (the twelve forms of spec/00_scope.md R3). -/

namespace Sys2Proof

/-- A register field value n, 0 to 7. With a width it denotes `Reg(w, n)` (spec/10_state.md R25). -/
inductive RegNum where
  | r0
  | r1
  | r2
  | r3
  | r4
  | r5
  | r6
  | r7
deriving DecidableEq, Repr

/-- The direction bit d (R82): d = 0 makes the r/m operand the destination, d = 1 the reg operand. -/
inductive Direction where
  | toRm
  | toReg
deriving DecidableEq, Repr

/-- The base of an effective address: the eight entries of R91. -/
inductive EaBase where
  | bxSi
  | bxDi
  | bpSi
  | bpDi
  | si
  | di
  | bp
  | bx
deriving DecidableEq, Repr

/-- The displacement of a based memory operand (R90): mod 00, 01 and 10. -/
inductive Disp where
  | none
  | d8 (v : Byte)
  | d16 (v : Word)
deriving DecidableEq, Repr

/-- The r/m operand as encoded (R90): a register, a direct 16-bit address, or a base with a displacement. -/
inductive RmOperand where
  | reg (n : RegNum)
  | direct (addr : Word)
  | based (b : EaBase) (disp : Disp)
deriving DecidableEq, Repr

/-- The immediate bytes as encoded (R94): one byte, or two bytes low byte first. -/
inductive Imm where
  | imm8 (v : Byte)
  | imm16 (v : Word)
deriving DecidableEq, Repr

/-- The operations of the DEFAULT, IMM_TO_RM and IMM_TO_ACC tables (R83). -/
inductive AluOp where
  | add
  | sub
  | cmp
deriving DecidableEq, Repr

/-- The fault kinds (spec/60_exceptions.md R200). -/
inductive FaultKind where
  | rangeViolation
  | unhandledPattern
  | unknownOperation
  | streamExhaustion
deriving DecidableEq, Repr

/-- The instructions, one constructor for each row of spec/opcode_table.json. Every bit of an encoding is kept:
`s` is the sign-extend bit, `x` the bit of the accumulator forms that the decoder ignores (R80; log entry 20). -/
inductive Instr where
  /-- MOV r/m <-> reg (R150). -/
  | movRmReg (d : Direction) (w : Width) (rm : RmOperand) (reg : RegNum)
  /-- MOV reg, imm (R151). -/
  | movRegImm (w : Width) (reg : RegNum) (imm : Imm)
  /-- ADD r/m <-> reg (R160). -/
  | addRmReg (d : Direction) (w : Width) (rm : RmOperand) (reg : RegNum)
  /-- SUB r/m <-> reg (R161). -/
  | subRmReg (d : Direction) (w : Width) (rm : RmOperand) (reg : RegNum)
  /-- CMP r/m <-> reg (R162). -/
  | cmpRmReg (d : Direction) (w : Width) (rm : RmOperand) (reg : RegNum)
  /-- ADD r/m, imm (R163). -/
  | addRmImm (s : Bool) (w : Width) (rm : RmOperand) (imm : Imm)
  /-- SUB r/m, imm (R164). -/
  | subRmImm (s : Bool) (w : Width) (rm : RmOperand) (imm : Imm)
  /-- CMP r/m, imm (R165). -/
  | cmpRmImm (s : Bool) (w : Width) (rm : RmOperand) (imm : Imm)
  /-- ADD acc, imm (R166). -/
  | addAccImm (x : Bool) (w : Width) (imm : Imm)
  /-- SUB acc, imm (R167). -/
  | subAccImm (x : Bool) (w : Width) (imm : Imm)
  /-- CMP acc, imm (R168). -/
  | cmpAccImm (x : Bool) (w : Width) (imm : Imm)
  /-- JZ rel8 (R190). -/
  | jzRel8 (disp : Byte)
deriving DecidableEq, Repr

end Sys2Proof
end

