-- ==== Sys2Proof/WellFormed.lean ====
section
/-! DEFINITION. Which terms of `Instr` an encoding can stand for: the shape checks of spec/30_encoding.md R90, R94. -/

namespace Sys2Proof

/-- mod = 00 with rm = 110 is the direct address, so BP alone has no form without a displacement (R90). -/
def RmOperand.wf : RmOperand → Bool
  | .based .bp .none => false
  | _ => true

/-- The immediate has 1 + w bytes (R94, rows IMM_TO_REG and IMM_TO_ACC). -/
def Imm.hasWidth : Imm → Width → Bool
  | .imm8 _, .byte => true
  | .imm16 _, .word => true
  | _, _ => false

/-- The immediate has 2 bytes if s = 0 and w = 1, else 1 byte (R94, row IMM_TO_RM). -/
def Imm.fitsRm (imm : Imm) (s : Bool) (w : Width) : Bool :=
  match imm, s, w with
  | .imm16 _, false, .word => true
  | .imm16 _, _, _ => false
  | .imm8 _, false, .word => false
  | .imm8 _, _, _ => true

/-- The instruction is one the encodings of R80, R90 and R94 can express. -/
def Instr.wf : Instr → Bool
  | .movRmReg _ _ rm _ => rm.wf
  | .movRegImm w _ imm => imm.hasWidth w
  | .addRmReg _ _ rm _ => rm.wf
  | .subRmReg _ _ rm _ => rm.wf
  | .cmpRmReg _ _ rm _ => rm.wf
  | .addRmImm s w rm imm => rm.wf && imm.fitsRm s w
  | .subRmImm s w rm imm => rm.wf && imm.fitsRm s w
  | .cmpRmImm s w rm imm => rm.wf && imm.fitsRm s w
  | .addAccImm _ w imm => imm.hasWidth w
  | .subAccImm _ w imm => imm.hasWidth w
  | .cmpAccImm _ w imm => imm.hasWidth w
  | .jzRel8 _ => true

end Sys2Proof
end

