-- ==== Sys2Proof/Decode.lean ====
section
/-! DEFINITION. The decoder and the encoder (spec/30_encoding.md): classify byte 0, take the header's fields, check the
length, read the trailing bytes. Every opcode constant and field position is the spec's; those it marks as general
knowledge are UNVERIFIED in log entry 15. -/

namespace Sys2Proof

/-! ### Byte order and extension -/

/-- Bits 7:0 of a word (R22). -/
def loByte (v : Word) : Byte := v.extractLsb' 0 8

/-- Bits 15:8 of a word (R22). -/
def hiByte (v : Word) : Byte := v.extractLsb' 8 8

/-- `hi ++ lo`, the word whose high byte is `hi` (R22). -/
def joinBytes (hi lo : Byte) : Word := hi ++ lo

/-- `sext_16` (R10). -/
def sext16 (v : Byte) : Word := v.signExtend 16

/-- Byte k of a byte list; the decoder asks only for bytes it has checked to be there (R102). -/
def byteAt (bs : List Byte) (k : Nat) : Byte := bs.getD k 0

/-- `imm16_at`: the byte at the lower offset is the low byte (R51). -/
def wordAt (bs : List Byte) (k : Nat) : Word := joinBytes (byteAt bs (k + 1)) (byteAt bs k)

/-- The two stream bytes of a 16-bit field, low byte first (R51). -/
def wordBytes (v : Word) : List Byte := [loByte v, hiByte v]

/-! ### Fields to constructors -/

/-- The w bit (R7). -/
def Width.ofBit (b : BitVec 1) : Width := if b = 0#1 then .byte else .word

/-- The w bit of a width. -/
def Width.bit : Width → BitVec 1
  | .byte => 0#1
  | .word => 1#1

/-- The d bit (R82). -/
def Direction.ofBit (b : BitVec 1) : Direction := if b = 0#1 then .toRm else .toReg

/-- The d bit of a direction. -/
def Direction.bit : Direction → BitVec 1
  | .toRm => 0#1
  | .toReg => 1#1

/-- The s bit and the ignored x bit (R80) as flags. -/
def boolOfBit (b : BitVec 1) : Bool := b == 1#1

/-- A flag as one bit. -/
def bitOfBool (b : Bool) : BitVec 1 := if b then 1#1 else 0#1

/-- The register number of a 3-bit field (R21, R23). -/
def RegNum.ofBits (b : BitVec 3) : RegNum :=
  match b.toNat with
  | 0 => .r0
  | 1 => .r1
  | 2 => .r2
  | 3 => .r3
  | 4 => .r4
  | 5 => .r5
  | 6 => .r6
  | _ => .r7

/-- The 3-bit field of a register number. -/
def RegNum.toBits : RegNum → BitVec 3
  | .r0 => 0#3
  | .r1 => 1#3
  | .r2 => 2#3
  | .r3 => 3#3
  | .r4 => 4#3
  | .r5 => 5#3
  | .r6 => 6#3
  | .r7 => 7#3

/-- The base of each rm code (R91, first column). -/
def EaBase.ofBits (b : BitVec 3) : EaBase :=
  match b.toNat with
  | 0 => .bxSi
  | 1 => .bxDi
  | 2 => .bpSi
  | 3 => .bpDi
  | 4 => .si
  | 5 => .di
  | 6 => .bp
  | _ => .bx

/-- The rm code of a base (R91). -/
def EaBase.toBits : EaBase → BitVec 3
  | .bxSi => 0#3
  | .bxDi => 1#3
  | .bpSi => 2#3
  | .bpDi => 3#3
  | .si => 4#3
  | .di => 5#3
  | .bp => 6#3
  | .bx => 7#3

/-! ### The pattern classifier -/

/-- The six patterns (R70). -/
inductive Pattern where
  | immToReg
  | regMem
  | immToRm
  | immToAcc
  | shortJump
  | default
deriving DecidableEq, Repr

/-- The 6-bit selector `b0[7:2]` (R71, R73). -/
def selector (b0 : Byte) : BitVec 6 := b0.extractLsb' 2 6

/-- The classifier: the first predicate that holds selects the pattern (R71). -/
def classify (jz b0 : Byte) : Pattern :=
  if b0.extractLsb' 4 4 = 0b1011#4 then .immToReg
  else if selector b0 = 0b100010#6 then .regMem
  else if selector b0 = 0b100000#6 then .immToRm
  else if selector b0 = 0b000001#6 ∨ selector b0 = 0b001011#6 ∨ selector b0 = 0b001111#6 then .immToAcc
  else if b0 = jz then .shortJump
  else .default

/-- Whether a launch may use this `JZ_OPCODE`: no predicate before the short jump's may hide it (R72). -/
def jzOpcodeAllowed (jz : Byte) : Bool :=
  !((0x04#8 ≤ jz && jz ≤ 0x07#8) || (0x2C#8 ≤ jz && jz ≤ 0x2F#8) || (0x3C#8 ≤ jz && jz ≤ 0x3F#8) ||
    (0x80#8 ≤ jz && jz ≤ 0x83#8) || (0x88#8 ≤ jz && jz ≤ 0x8B#8) || (0xB0#8 ≤ jz && jz ≤ 0xBF#8))

/-- The header bytes of each pattern (R70, R84). -/
def headerLen : Pattern → Nat
  | .immToReg => 1
  | .regMem => 2
  | .immToRm => 2
  | .immToAcc => 1
  | .shortJump => 1
  | .default => 2

/-! ### The operation tables (R83) -/

/-- DEFAULT's table, by op6. -/
def defaultOp (op6 : BitVec 6) : Option AluOp :=
  if op6 = 0b000000#6 then some .add
  else if op6 = 0b001010#6 then some .sub
  else if op6 = 0b001110#6 then some .cmp
  else none

/-- IMM_TO_ACC's table, by op6. -/
def accOp (op6 : BitVec 6) : Option AluOp :=
  if op6 = 0b000001#6 then some .add
  else if op6 = 0b001011#6 then some .sub
  else if op6 = 0b001111#6 then some .cmp
  else none

/-- IMM_TO_RM's table, by op3. -/
def immOp (op3 : BitVec 3) : Option AluOp :=
  if op3 = 0b000#3 then some .add
  else if op3 = 0b101#3 then some .sub
  else if op3 = 0b111#3 then some .cmp
  else none

/-! ### The field decoder -/

/-- The field-encoding record: one constructor for each pattern, with exactly that pattern's fields (R80, R81). -/
inductive Fields where
  | immToReg (w : BitVec 1) (reg : BitVec 3)
  | regMem (d w : BitVec 1) (mod : BitVec 2) (reg rm : BitVec 3)
  | immToRm (s w : BitVec 1) (mod : BitVec 2) (op3 rm : BitVec 3)
  | immToAcc (op6 : BitVec 6) (w : BitVec 1)
  | shortJump
  | default (op6 : BitVec 6) (d w : BitVec 1) (mod : BitVec 2) (reg rm : BitVec 3)
deriving DecidableEq, Repr

/-- Bit 1 of byte 0, which is no field of IMM_TO_ACC and which R80 ignores. It reaches the accumulator instructions beside
the fields, so that no bit of an encoding is lost (log entry 20). -/
def ignoredBit (b0 : Byte) : BitVec 1 := b0.extractLsb' 1 1

/-- The fields of a header, at the bit positions of R80. -/
def fieldsOf (p : Pattern) (b0 b1 : Byte) : Fields :=
  match p with
  | .immToReg => .immToReg (b0.extractLsb' 3 1) (b0.extractLsb' 0 3)
  | .regMem =>
    .regMem (b0.extractLsb' 1 1) (b0.extractLsb' 0 1) (b1.extractLsb' 6 2) (b1.extractLsb' 3 3) (b1.extractLsb' 0 3)
  | .immToRm =>
    .immToRm (b0.extractLsb' 1 1) (b0.extractLsb' 0 1) (b1.extractLsb' 6 2) (b1.extractLsb' 3 3) (b1.extractLsb' 0 3)
  | .immToAcc => .immToAcc (selector b0) (b0.extractLsb' 0 1)
  | .shortJump => .shortJump
  | .default =>
    .default (selector b0) (b0.extractLsb' 1 1) (b0.extractLsb' 0 1) (b1.extractLsb' 6 2) (b1.extractLsb' 3 3)
      (b1.extractLsb' 0 3)

/-! ### Lengths -/

/-- `dlen`: the displacement bytes of mod and rm (R100). -/
def dispLen (mod : BitVec 2) (rm : BitVec 3) : Nat :=
  if mod = 0b11#2 then 0
  else if mod = 0b00#2 then (if rm = 0b110#3 then 2 else 0)
  else if mod = 0b01#2 then 1
  else 2

/-- The immediate bytes of IMM_TO_RM: 2 if s = 0 and w = 1, else 1 (R94, R100). -/
def rmImmLen (s : Bool) (w : Width) : Nat :=
  match s, w with
  | false, .word => 2
  | false, .byte => 1
  | true, .word => 1
  | true, .byte => 1

/-- The length of an instruction as a function of its header fields (R100). -/
def Fields.len : Fields → Nat
  | .immToReg w _ => 1 + (Width.ofBit w).bytes
  | .regMem _ _ mod _ rm => 2 + dispLen mod rm
  | .immToRm s w mod _ rm => 2 + dispLen mod rm + rmImmLen (boolOfBit s) (Width.ofBit w)
  | .immToAcc _ w => 1 + (Width.ofBit w).bytes
  | .shortJump => 2
  | .default _ _ _ mod _ rm => 2 + dispLen mod rm

/-! ### The operand resolver's encoded part -/

/-- The r/m operand of mod and rm, its displacement read from the trailing bytes; the direct address is tested before
the base table (R90). -/
def rmOf (mod : BitVec 2) (rm : BitVec 3) (tr : List Byte) : RmOperand :=
  if mod = 0b11#2 then .reg (RegNum.ofBits rm)
  else if mod = 0b00#2 then
    (if rm = 0b110#3 then .direct (wordAt tr 0) else .based (EaBase.ofBits rm) .none)
  else if mod = 0b01#2 then .based (EaBase.ofBits rm) (.d8 (byteAt tr 0))
  else .based (EaBase.ofBits rm) (.d16 (wordAt tr 0))

/-- An immediate of n bytes at offset k of the trailing bytes, low byte first (R51, R94). -/
def immOf (n : Nat) (tr : List Byte) (k : Nat) : Imm :=
  if n = 1 then .imm8 (byteAt tr k) else .imm16 (wordAt tr k)

/-- The DEFAULT instruction of an operation (R83). -/
def rmRegInstr : AluOp → Direction → Width → RmOperand → RegNum → Instr
  | .add => .addRmReg
  | .sub => .subRmReg
  | .cmp => .cmpRmReg

/-- The IMM_TO_RM instruction of an operation (R83). -/
def rmImmInstr : AluOp → Bool → Width → RmOperand → Imm → Instr
  | .add => .addRmImm
  | .sub => .subRmImm
  | .cmp => .cmpRmImm

/-- The IMM_TO_ACC instruction of an operation (R83). -/
def accImmInstr : AluOp → Bool → Width → Imm → Instr
  | .add => .addAccImm
  | .sub => .subAccImm
  | .cmp => .cmpAccImm

/-- The instruction of a header's fields and the bytes after the header; none where the operation table has no entry
(R83, R94, R95, R97). The immediate of IMM_TO_RM follows the displacement. `x` is the `ignoredBit`. -/
def assemble (f : Fields) (x : BitVec 1) (tr : List Byte) : Option Instr :=
  match f with
  | .immToReg w reg => some (.movRegImm (Width.ofBit w) (RegNum.ofBits reg) (immOf (Width.ofBit w).bytes tr 0))
  | .regMem d w mod reg rm =>
    some (.movRmReg (Direction.ofBit d) (Width.ofBit w) (rmOf mod rm tr) (RegNum.ofBits reg))
  | .immToRm s w mod op3 rm =>
    (immOp op3).map fun op =>
      rmImmInstr op (boolOfBit s) (Width.ofBit w) (rmOf mod rm tr)
        (immOf (rmImmLen (boolOfBit s) (Width.ofBit w)) tr (dispLen mod rm))
  | .immToAcc op6 w =>
    (accOp op6).map fun op => accImmInstr op (boolOfBit x) (Width.ofBit w) (immOf (Width.ofBit w).bytes tr 0)
  | .shortJump => some (.jzRel8 (byteAt tr 0))
  | .default op6 d w mod reg rm =>
    (defaultOp op6).map fun op =>
      rmRegInstr op (Direction.ofBit d) (Width.ofBit w) (rmOf mod rm tr) (RegNum.ofBits reg)

/-! ### The decode function -/

/-- Why decoding failed: the fault's kind and the number of bytes examined (R103). -/
structure DecodeError where
  kind : FaultKind
  examined : Nat
deriving DecidableEq, Repr

/-- The whole-instruction check and the operands (R102, R103), after the header's fields are known.
The last case is UnknownOperation for a selector with no entry; the checks of `decode` come before it. -/
def decodeFields (f : Fields) (x : BitVec 1) (h : Nat) (bs : List Byte) : Except DecodeError (Instr × List Byte) :=
  if bs.length < f.len then .error ⟨.streamExhaustion, bs.length⟩
  else match assemble f x (bs.drop h) with
    | some i => .ok (i, bs.drop f.len)
    | none => .error ⟨.unknownOperation, h⟩

/-- Whether byte 0 selects DEFAULT with no operation in its table (R83, R103). -/
def noDefaultOp (jz b0 : Byte) : Bool := classify jz b0 == .default && (defaultOp (selector b0)).isNone

/-- Whether the header is IMM_TO_RM with an op3 that has no operation (R83, R103). -/
def noImmOp (p : Pattern) (b1 : Byte) : Bool := p == .immToRm && (immOp (b1.extractLsb' 3 3)).isNone

/-- `decode` (R103) on the bytes from `here` to the end of the stream, in the check order of R208: the instruction and
the bytes after it, or the fault. RangeViolation and UnhandledPattern are the defensive checks of R201 and R202, which no
input fails (log entry 13). -/
def decode (jz : Byte) (bs : List Byte) : Except DecodeError (Instr × List Byte) :=
  match bs with
  | [] => .error ⟨.streamExhaustion, 0⟩
  | b0 :: tl =>
    if 64 ≤ (selector b0).toNat then .error ⟨.rangeViolation, 1⟩
    else if noDefaultOp jz b0 then .error ⟨.unknownOperation, 1⟩
    else if headerLen (classify jz b0) = 0 then .error ⟨.unhandledPattern, 1⟩
    else if (b0 :: tl).length < headerLen (classify jz b0) then .error ⟨.streamExhaustion, (b0 :: tl).length⟩
    else if noImmOp (classify jz b0) (byteAt tl 0) then .error ⟨.unknownOperation, 2⟩
    else decodeFields (fieldsOf (classify jz b0) b0 (byteAt tl 0)) (ignoredBit b0) (headerLen (classify jz b0)) (b0 :: tl)

/-! ### Instruction length and the encoder -/

/-- The displacement bytes of an r/m operand (R90). -/
def RmOperand.dispLen : RmOperand → Nat
  | .reg _ => 0
  | .direct _ => 2
  | .based _ .none => 0
  | .based _ (.d8 _) => 1
  | .based _ (.d16 _) => 2

/-- The byte length of an instruction (R100). -/
def Instr.length : Instr → Nat
  | .movRmReg _ _ rm _ => 2 + rm.dispLen
  | .movRegImm w _ _ => 1 + w.bytes
  | .addRmReg _ _ rm _ => 2 + rm.dispLen
  | .subRmReg _ _ rm _ => 2 + rm.dispLen
  | .cmpRmReg _ _ rm _ => 2 + rm.dispLen
  | .addRmImm s w rm _ => 2 + rm.dispLen + rmImmLen s w
  | .subRmImm s w rm _ => 2 + rm.dispLen + rmImmLen s w
  | .cmpRmImm s w rm _ => 2 + rm.dispLen + rmImmLen s w
  | .addAccImm _ w _ => 1 + w.bytes
  | .subAccImm _ w _ => 1 + w.bytes
  | .cmpAccImm _ w _ => 1 + w.bytes
  | .jzRel8 _ => 2

/-- The mod field of an r/m operand (R90). -/
def RmOperand.modBits : RmOperand → BitVec 2
  | .reg _ => 0b11#2
  | .direct _ => 0b00#2
  | .based _ .none => 0b00#2
  | .based _ (.d8 _) => 0b01#2
  | .based _ (.d16 _) => 0b10#2

/-- The rm field of an r/m operand (R90, R91). -/
def RmOperand.rmBits : RmOperand → BitVec 3
  | .reg n => n.toBits
  | .direct _ => 0b110#3
  | .based b _ => b.toBits

/-- The displacement bytes, low byte first (R51, R90). -/
def RmOperand.dispBytes : RmOperand → List Byte
  | .reg _ => []
  | .direct a => wordBytes a
  | .based _ .none => []
  | .based _ (.d8 v) => [v]
  | .based _ (.d16 v) => wordBytes v

/-- The immediate bytes, low byte first (R51). -/
def Imm.encBytes : Imm → List Byte
  | .imm8 v => [v]
  | .imm16 v => wordBytes v

/-- Byte 0 of a form with a 6-bit opcode: `o o o o o o d w` (R80). -/
def opcodeByte (op6 : BitVec 6) (b1 : BitVec 1) (w : Width) : Byte := op6 ++ b1 ++ w.bit

/-- Byte 1: `m m r r r b b b` (R80). -/
def modRmByte (rm : RmOperand) (mid : BitVec 3) : Byte := rm.modBits ++ mid ++ rm.rmBits

/-- The bytes of a register/memory with register form (R80). -/
def encRmReg (op6 : BitVec 6) (d : Direction) (w : Width) (rm : RmOperand) (reg : RegNum) : List Byte :=
  opcodeByte op6 d.bit w :: modRmByte rm reg.toBits :: rm.dispBytes

/-- The bytes of an immediate to register/memory form (R80, R94). -/
def encRmImm (op3 : BitVec 3) (s : Bool) (w : Width) (rm : RmOperand) (imm : Imm) : List Byte :=
  opcodeByte 0b100000#6 (bitOfBool s) w :: modRmByte rm op3 :: (rm.dispBytes ++ imm.encBytes)

/-- The bytes of an immediate to accumulator form (R80, R94). -/
def encAccImm (op6 : BitVec 6) (x : Bool) (w : Width) (imm : Imm) : List Byte :=
  opcodeByte op6 (bitOfBool x) w :: imm.encBytes

/-- The bytes of a well-formed instruction for a launch's `JZ_OPCODE` (R80, R83, R90, R94). -/
def encode (jz : Byte) : Instr → List Byte
  | .movRmReg d w rm reg => encRmReg 0b100010#6 d w rm reg
  | .movRegImm w reg imm => (0b1011#4 ++ w.bit ++ reg.toBits) :: imm.encBytes
  | .addRmReg d w rm reg => encRmReg 0b000000#6 d w rm reg
  | .subRmReg d w rm reg => encRmReg 0b001010#6 d w rm reg
  | .cmpRmReg d w rm reg => encRmReg 0b001110#6 d w rm reg
  | .addRmImm s w rm imm => encRmImm 0b000#3 s w rm imm
  | .subRmImm s w rm imm => encRmImm 0b101#3 s w rm imm
  | .cmpRmImm s w rm imm => encRmImm 0b111#3 s w rm imm
  | .addAccImm x w imm => encAccImm 0b000001#6 x w imm
  | .subAccImm x w imm => encAccImm 0b001011#6 x w imm
  | .cmpAccImm x w imm => encAccImm 0b001111#6 x w imm
  | .jzRel8 disp => [jz, disp]

/-- Byte 0 of the DEFAULT forms, which a launch's `JZ_OPCODE` may hide, since the short jump's predicate comes first
(R71; log entry 16). -/
def Instr.hiddenBy (jz : Byte) : Instr → Bool
  | .movRmReg _ _ _ _ => false
  | .movRegImm _ _ _ => false
  | .addRmReg d w _ _ => opcodeByte 0b000000#6 d.bit w == jz
  | .subRmReg d w _ _ => opcodeByte 0b001010#6 d.bit w == jz
  | .cmpRmReg d w _ _ => opcodeByte 0b001110#6 d.bit w == jz
  | .addRmImm _ _ _ _ => false
  | .subRmImm _ _ _ _ => false
  | .cmpRmImm _ _ _ _ => false
  | .addAccImm _ _ _ => false
  | .subAccImm _ _ _ => false
  | .cmpAccImm _ _ _ => false
  | .jzRel8 _ => false

/-! ### The opcode table's numbering -/

/-- Byte k of a number of nbits bits. spec/opcode_table.json numbers a row's header "in stream order as one number, byte 0
the most significant" (spec/30_encoding.md, preamble; log entry 1), so byte 0 is the topmost of the nbits. Bytes past nbits
are 0. -/
def tableByte (nbits w k : Nat) : Byte :=
  if 8 * (k + 1) ≤ nbits then BitVec.ofNat 8 (w / 2 ^ (nbits - 8 * (k + 1))) else 0

/-- The bytes of the longest instruction (6, R101) that a table number stands for. -/
def tableBytes (nbits w : Nat) : List Byte :=
  [tableByte nbits w 0, tableByte nbits w 1, tableByte nbits w 2, tableByte nbits w 3, tableByte nbits w 4,
    tableByte nbits w 5]

/-- The instruction the decoder reads from a number of spec/opcode_table.json, with the default `JZ_OPCODE` (the table's
preamble). -/
def decodeTableWord (nbits w : Nat) : Option Instr :=
  match decode Config.defaultJzOpcode (tableBytes nbits w) with
  | .ok r => some r.1
  | .error _ => none

end Sys2Proof
end

