-- ==== Sys2Proof/Machine/State.lean ====
section
/-! DEFINITION. The state vector of spec/10_state.md R20, the launch data a step reads (R8, R40), and the block's outputs
(R41, R42). -/

namespace Sys2Proof.Machine

/-- The eight general register cells x[0] to x[7] under the names of R21. -/
structure Regs where
  ax : Word
  cx : Word
  dx : Word
  bx : Word
  sp : Word
  bp : Word
  si : Word
  di : Word
deriving DecidableEq, Repr

/-- Data memory (R54): the bytes that differ from what an unlisted address reads as, in rising address order. -/
abbrev Memory := List Host.Cell

/-- The fault record (R207). Its `state` entry is the State that holds it (log entry 12). -/
structure FaultRecord where
  /-- The fault's kind; its numeric code is `FaultKind.code`. -/
  kind : FaultKind
  /-- The record's `at`: the offset of the faulting instruction, or the out-of-range fetch address. -/
  here : Word
  /-- The bytes examined. -/
  seen : List Byte
deriving DecidableEq, Repr

/-- The executor's status (R34). -/
inductive Status where
  | running
  | halted
  | faulted (r : FaultRecord)
deriving DecidableEq, Repr

/-- A value of its own width: a `u8` or a `u16` (R24). -/
inductive Value where
  | byte (v : Byte)
  | word (v : Word)
deriving DecidableEq, Repr

/-- The mnemonics of the trace record (R135). -/
inductive Mnemonic where
  | mov
  | add
  | sub
  | cmp
  | jz
deriving DecidableEq, Repr

/-- The trace record of one completed instruction (R135). -/
structure TraceRecord where
  mnemonic : Mnemonic
  /-- Display text of the destination (R108, R109). -/
  dstText : String
  /-- Display text of the source; absent for JZ. -/
  srcText : Option String
  /-- The operand width; absent for JZ. -/
  width : Option Width
  /-- The machine-code bytes consumed. -/
  bytes : List Byte
  /-- The record's `at`: the offset of the instruction. -/
  here : Word
  /-- The destination's value before the instruction. -/
  pre : Value
  /-- The destination's value after it. -/
  post : Value
deriving DecidableEq, Repr

/-- One request on the data-memory port (R41). -/
inductive PortRequest where
  | read (addr : Word) (w : Width)
  | write (addr : Word) (v : Value)
deriving DecidableEq, Repr

/-- The block between two steps: the state vector of R20, the launch's data (R8, R40), and what the block has put out. -/
structure State where
  /-- x[0..7] (R21). -/
  regs : Regs
  /-- The flags register (R27; its reserved bits: log entry 19). -/
  flags : Word
  /-- The instruction pointer (R31). -/
  ip : Word
  /-- The fetch cursor, used when FETCH_MODE = LINEAR (R33). -/
  cursor : Word
  /-- The executor's status (R34). -/
  status : Status
  /-- Data memory, used when MEMORY_MODEL = BACKED (R54). -/
  mem : Memory
  /-- Launch data no step writes (R8, R20; log entry 2). -/
  cfg : LaunchConfig
  /-- The instruction stream code[0..L-1]; L is its length (R50). Launch data no step writes. -/
  code : List Byte
  /-- The model's own: how many free values have been drawn (log entry 5). -/
  draws : Nat
  /-- Output: the trace records emitted, oldest first (R42, R136; log entry 7). -/
  trace : List TraceRecord
  /-- Output: the data-memory requests issued, oldest first (R41; log entry 8). -/
  port : List PortRequest
deriving DecidableEq, Repr

/-- Why no step is taken from a state whose run has ended (R34, R120: "A step is taken only while status = RUNNING").
Both are stuck states: raised by `State.fetch` alone, and safe, since the spec has no step there (log entry 9). -/
inductive Fault where
  /-- The status is HALTED. Raised by `State.fetch`; safe. -/
  | halted
  /-- The status is FAULTED with this record. Raised by `State.fetch`; safe. -/
  | faulted (r : FaultRecord)
deriving DecidableEq, Repr

/-- Why a step or a launch is refused. -/
inductive Refusal where
  /-- An instruction of exec's match without a meaning; no arm raises it. Safe. -/
  | notModelled (mnemonic : String)
  /-- The launch's JZ_OPCODE lies in a range of R72, and "a launch with JZ_OPCODE inside those ranges is refused".
  Raised by `State.launchProblem`; safe. -/
  | jzOpcodeHidden (jz : Byte)
  /-- The launch's stream is longer than 0xFFFF bytes (R50, decision D11). Raised by `State.launchProblem`; safe. -/
  | streamTooLong (length : Nat)
deriving DecidableEq, Repr

/-- What a step answers. -/
abbrev Result := Host.Outcome State Fault Refusal

/-- The reset values of R35, with the launch parameters of `Config.default`, no stream (log entry 11) and MEM_INIT all
zeros (DESIGN CHOICE, log entry 4). -/
def State.reset : State :=
  { regs := { ax := 0, cx := 0, dx := 0, bx := 0, sp := 0, bp := 0, si := 0, di := 0 }
    flags := 0
    ip := 0
    cursor := 0
    status := .running
    mem := []
    cfg := Config.default
    code := []
    draws := 0
    trace := []
    port := [] }

end Sys2Proof.Machine
end

