-- ==== Sys2Proof/Machine/Ops.lean ====
section
/-! DEFINITION. The named operations over the state: registers (spec/10_state.md), data memory (spec/20_memory.md), the
instruction cycle's parts (spec/40_execution.md), raising a fault (spec/60_exceptions.md R206), and the launch. -/

namespace Sys2Proof.Machine

/-! ### General registers -/

/-- The word read of cell n (R21). -/
def Regs.get (r : Regs) : RegNum → Word
  | .r0 => r.ax
  | .r1 => r.cx
  | .r2 => r.dx
  | .r3 => r.bx
  | .r4 => r.sp
  | .r5 => r.bp
  | .r6 => r.si
  | .r7 => r.di

/-- The word write of cell n (R24). -/
def Regs.set (r : Regs) (n : RegNum) (v : Word) : Regs :=
  match n with
  | .r0 => { r with ax := v }
  | .r1 => { r with cx := v }
  | .r2 => { r with dx := v }
  | .r3 => { r with bx := v }
  | .r4 => { r with sp := v }
  | .r5 => { r with bp := v }
  | .r6 => { r with si := v }
  | .r7 => { r with di := v }

/-- The cell a byte view lies in: n for n < 4, else n - 4 (R23). -/
def viewCell : RegNum → RegNum
  | .r0 => .r0
  | .r1 => .r1
  | .r2 => .r2
  | .r3 => .r3
  | .r4 => .r0
  | .r5 => .r1
  | .r6 => .r2
  | .r7 => .r3

/-- Whether a byte view is the high byte of its cell: n is 4 or more (R23). -/
def viewHigh : RegNum → Bool
  | .r0 => false
  | .r1 => false
  | .r2 => false
  | .r3 => false
  | .r4 => true
  | .r5 => true
  | .r6 => true
  | .r7 => true

/-- The read of byte view n (R23). -/
def Regs.get8 (r : Regs) (n : RegNum) : Byte :=
  if viewHigh n then hiByte (r.get (viewCell n)) else loByte (r.get (viewCell n))

/-- The write of byte view n, which leaves the other byte of the cell (R24). -/
def Regs.set8 (r : Regs) (n : RegNum) (v : Byte) : Regs :=
  if viewHigh n then r.set (viewCell n) (joinBytes v (loByte (r.get (viewCell n))))
  else r.set (viewCell n) (joinBytes (hiByte (r.get (viewCell n))) v)

/-- The read of `Reg(w, n)` (R25). -/
def State.readReg (s : State) (w : Width) (n : RegNum) : w.Val :=
  match w with
  | .byte => s.regs.get8 n
  | .word => s.regs.get n

/-- The write of `Reg(w, n)` (R25). -/
def State.writeReg (s : State) (w : Width) (n : RegNum) (v : w.Val) : State :=
  match w, v with
  | .byte, v => { s with regs := s.regs.set8 n v }
  | .word, v => { s with regs := s.regs.set n v }

/-! ### Data memory -/

/-- What a byte that no entry lists reads as. MEM_INIT is OPEN in R8; DESIGN CHOICE (log entry 4, unsafe): zero, as the
spec's test vectors have it. A launch with another MEM_INIT lists its bytes (`Memory.ofImage`). -/
def Memory.unlisted : Byte := 0x00

/-- The byte at an address (R54). -/
def Memory.get : Memory → Nat → Byte
  | [], _ => Memory.unlisted
  | (b, v) :: m, a => if a = b then v else Memory.get m a

/-- The entry to list for a byte, none if it is what an unlisted address reads as. -/
def Memory.entry (a : Nat) (v : Byte) (m : Memory) : Memory :=
  if v = Memory.unlisted then m else (a, v) :: m

/-- The write of one byte, which keeps the canonical form (R56). -/
def Memory.set : Memory → Nat → Byte → Memory
  | [], a, v => Memory.entry a v []
  | (b, u) :: m, a, v =>
    if a < b then Memory.entry a v ((b, u) :: m)
    else if a = b then Memory.entry a v m
    else (b, u) :: Memory.set m a v

/-- The canonical form from an address on: addresses rising and below 65,536, no entry at the unlisted value. -/
def Memory.wfFrom (lo : Nat) : Memory → Bool
  | [] => true
  | (a, v) :: m => decide (lo ≤ a) && decide (a < 65536) && decide (v ≠ Memory.unlisted) && Memory.wfFrom (a + 1) m

/-- The canonical form of data memory. -/
def Memory.wf (m : Memory) : Bool := Memory.wfFrom 0 m

/-- The canonical list of an image whose first byte lies at address a. -/
def Memory.ofImageFrom : Nat → List Byte → Memory
  | _, [] => []
  | a, v :: vs => Memory.entry a v (Memory.ofImageFrom (a + 1) vs)

/-- The canonical list of the 65,536-byte image MEM_INIT (R35, R54). -/
def Memory.ofImage (img : List Byte) : Memory := Memory.ofImageFrom 0 (img.take 65536)

/-- The byte of data memory at a u16 address (R54). -/
def State.byteAt (s : State) (a : Word) : Byte := Memory.get s.mem a.toNat

/-- The 1 or 2 bytes at an address, low byte first, the address of the second taken modulo 2^16 (R55, R57). -/
def State.peek (s : State) (w : Width) (a : Word) : w.Val :=
  match w with
  | .byte => s.byteAt a
  | .word => joinBytes (s.byteAt (a + 1#16)) (s.byteAt a)

/-- The write of one byte of data memory (R56). -/
def State.setByte (s : State) (a : Word) (v : Byte) : State := { s with mem := Memory.set s.mem a.toNat v }

/-- The write of 1 or 2 bytes, low byte first (R56, R57). -/
def State.poke (s : State) (w : Width) (a : Word) (v : w.Val) : State :=
  match w, v with
  | .byte, v => s.setByte a v
  | .word, v => (s.setByte a (loByte v)).setByte (a + 1#16) (hiByte v)

/-- A value of its own width (R24). -/
def Value.ofVal : (w : Width) → w.Val → Value
  | .byte, v => .byte v
  | .word, v => .word v

/-- One more request on the data-memory port (R41). -/
def State.request (s : State) (r : PortRequest) : State := { s with port := s.port ++ [r] }

/-- The next free value at a width (R55: "a fresh draw"; log entry 5). -/
def State.drawn (s : State) (w : Width) : w.Val :=
  match w with
  | .byte => loByte (Config.freeDraw s.draws)
  | .word => Config.freeDraw s.draws

/-- The counter past a draw, so that no later draw is the same one. -/
def State.nextDraw (s : State) : State := { s with draws := s.draws + 1 }

/-- `MemRead(a, 1 + w)` (R55). -/
def State.memRead (s : State) (w : Width) (a : Word) : w.Val × State :=
  match s.cfg.memoryModel with
  | .backed => (s.peek w a, s.request (.read a w))
  | .inert => (s.drawn w, s.nextDraw.request (.read a w))

/-- `MemWrite(a, 1 + w, v)`; INERT changes no byte (R56). -/
def State.memWrite (s : State) (w : Width) (a : Word) (v : w.Val) : State :=
  match s.cfg.memoryModel with
  | .backed => (s.request (.write a (Value.ofVal w v))).poke w a v
  | .inert => s.request (.write a (Value.ofVal w v))

/-- The trace's view of a memory destination (R135): under BACKED "an observation, not a data-memory request"; under INERT
a free value of its own (log entry 6). -/
def State.memObserve (s : State) (w : Width) (a : Word) : w.Val × State :=
  match s.cfg.memoryModel with
  | .backed => (s.peek w a, s)
  | .inert => (s.drawn w, s.nextDraw)

/-! ### The instruction cycle -/

/-- The fetch address `here` (R121). -/
def State.fetchAddr (s : State) : Word :=
  match s.cfg.fetchMode with
  | .follow => s.ip
  | .linear => s.cursor

/-- `next = trunc_16(here + len)`, the address after an instruction at the fetch address (R122). -/
def State.nextAddr (s : State) (len : Nat) : Word := s.fetchAddr + BitVec.ofNat 16 len

/-- The cycle's own writes for an instruction of a length: `ip <- next`, and in LINEAR `cursor <- here + len`
(R120, R122, R33). FOLLOW leaves the cursor (log entry 17). -/
def State.advance (s : State) (len : Nat) : State :=
  match s.cfg.fetchMode with
  | .follow => { s with ip := s.nextAddr len }
  | .linear => { s with ip := s.nextAddr len, cursor := s.nextAddr len }

/-- The emission of a trace record (R136). -/
def State.emit (s : State) (r : TraceRecord) : State := { s with trace := s.trace ++ [r] }

/-- The halt at the stream's end, which changes nothing else (R123). -/
def State.halt (s : State) : State := { s with status := .halted }

/-- The bytes from an offset to the end of the stream; none beyond it (R50). -/
def State.streamFrom (s : State) (a : Word) : List Byte := s.code.drop a.toNat

/-- The fault codes (R200). -/
def FaultKind.code : FaultKind → Nat
  | .rangeViolation => 1
  | .unhandledPattern => 2
  | .unknownOperation => 3
  | .streamExhaustion => 4

/-- Taking a fault, the one exception entry of the block: only the status is written, with the record of R207 (R206).
There is no saved pc, no vector (R210) and no return (R211). -/
def State.raise (s : State) (kind : FaultKind) (here : Word) (examined : Nat) : State :=
  { s with status := .faulted { kind := kind, here := here, seen := (s.streamFrom here).take examined } }

/-- The register dump, in the order of R43. -/
def State.registers (s : State) : List Word :=
  [s.regs.ax, s.regs.bx, s.regs.cx, s.regs.dx, s.regs.sp, s.regs.bp, s.regs.si, s.regs.di]

/-- The dump the block exposes when its status becomes HALTED (R43). -/
def State.dump (s : State) : Option (List Word) :=
  match s.status with
  | .halted => some s.registers
  | .running => none
  | .faulted _ => none

/-! ### The launch -/

/-- Why a launch with these parameters and this stream is refused, if it is (R50, R72). -/
def State.launchProblem (s : State) : Option Refusal :=
  if jzOpcodeAllowed s.cfg.jzOpcode then
    (if s.code.length ≤ Config.maxStreamLength then none else some (.streamTooLong s.code.length))
  else some (.jzOpcodeHidden s.cfg.jzOpcode)

/-- The reset values with a launch's own input: parameters, stream and, under BACKED, MEM_INIT (R35, R40, R230). -/
def State.launched (cfg : LaunchConfig) (code img : List Byte) : State :=
  { State.reset with
    cfg := cfg
    code := code
    mem := match cfg.memoryModel with
      | .backed => Memory.ofImage img
      | .inert => [] }

/-- A launch: the state before its first step, or the refusal (R40, R232). -/
def State.launch (cfg : LaunchConfig) (code img : List Byte) : Result :=
  match (State.launched cfg code img).launchProblem with
  | none => .next (State.launched cfg code img)
  | some r => .refused r

/-- The stream with bytes placed at an offset, zeros before it where it was shorter, never longer than a launch allows. -/
def placeBytes (code : List Byte) (at_ : Nat) (bs : List Byte) : List Byte :=
  ((code.take at_ ++ List.replicate (at_ - code.length) 0) ++ bs ++ code.drop (at_ + bs.length)).take
    Config.maxStreamLength

/-- The state whose next step fetches these bytes: they lie at the fetch address and the run has not ended. -/
def State.placeAtFetch (s : State) (bs : List Byte) : State :=
  { s with code := placeBytes s.code s.fetchAddr.toNat bs, status := .running }

/-- What the next step does. -/
inductive Fetch where
  /-- The launch is refused: no step. -/
  | refuse (r : Refusal)
  /-- The run has ended: no step. -/
  | stop (f : Fault)
  /-- The step halts the run. -/
  | halt
  /-- The step raises a fault. -/
  | raise (kind : FaultKind) (here : Word) (examined : Nat)
  /-- The step runs this instruction. -/
  | run (i : Instr)
deriving DecidableEq, Repr

/-- The decoding at the fetch address (R103). -/
def State.fetchRunning (s : State) : Fetch :=
  if s.fetchAddr.toNat = s.code.length then .halt
  else if s.code.length < s.fetchAddr.toNat then .raise .streamExhaustion s.fetchAddr 0
  else match decode s.cfg.jzOpcode (s.streamFrom s.fetchAddr) with
    | .ok r => .run r.1
    | .error e => .raise e.kind s.fetchAddr e.examined

/-- The step up to the instruction's own rule (R120, R121, R123, R124, R208). -/
def State.fetch (s : State) : Fetch :=
  match s.launchProblem with
  | some r => .refuse r
  | none =>
    match s.status with
    | .halted => .stop .halted
    | .faulted r => .stop (.faulted r)
    | .running => s.fetchRunning

end Sys2Proof.Machine
end

