-- ==== Sys2Proof/Machine/Flags.lean ====
section
/-! DEFINITION. The flags register by bit position (spec/10_state.md R27, R30) and the flags updater
(spec/40_execution.md R128). -/

namespace Sys2Proof.Machine

/-- ZF's bit position (R27). -/
def zfBit : Nat := 6

/-- SF's bit position (R27). -/
def sfBit : Nat := 7

/-- A word with one bit written. -/
def putBit (f : Word) (k : Nat) (b : Bool) : Word :=
  if b then f ||| (1#16 <<< k) else f &&& ~~~(1#16 <<< k)

/-- The read of a flag by bit position (R30). -/
def State.flag (s : State) (k : Nat) : Bool := s.flags.getLsbD k

/-- The write of a flag by bit position, which changes no other bit (R27, R30). -/
def State.setFlag (s : State) (k : Nat) (b : Bool) : State := { s with flags := putBit s.flags k b }

/-- ZF (R27). -/
def State.zf (s : State) : Bool := s.flag zfBit

/-- SF (R27). -/
def State.sf (s : State) : Bool := s.flag sfBit

/-- `SetFlags(r, w)`: ZF is whether r is zero, SF its most significant bit at its own width (R128). -/
def State.setFlags (s : State) (w : Width) (r : w.Val) : State :=
  (s.setFlag zfBit (r == 0)).setFlag sfBit r.msb

/-- The flags update of MOV, under `MOV_WRITES_FLAGS` alone (R28, R129). -/
def State.setFlagsMov (s : State) (w : Width) (r : w.Val) : State :=
  if s.cfg.movWritesFlags then s.setFlags w r else s

end Sys2Proof.Machine
end

