-- ==== Sys2Proof/Machine/Operands.lean ====
section
/-! DEFINITION. Operand resolution (spec/30_encoding.md R90 to R97), operand access (spec/40_execution.md R125 to R127) and
display text (R108, R109). -/

namespace Sys2Proof.Machine

/-- A resolved operand of a width (R96). -/
inductive Operand (w : Width) where
  /-- `Reg(w, n)`. -/
  | reg (n : RegNum)
  /-- `Mem(a, w)`. -/
  | mem (a : Word)
  /-- `Imm(v, w)`. -/
  | imm (v : w.Val)
deriving DecidableEq, Repr

/-! ### Effective addresses -/

/-- The sum of an entry's registers, modulo 2^16 (R91, R92). -/
def Regs.base (r : Regs) : EaBase → Word
  | .bxSi => r.bx + r.si
  | .bxDi => r.bx + r.di
  | .bpSi => r.bp + r.si
  | .bpDi => r.bp + r.di
  | .si => r.si
  | .di => r.di
  | .bp => r.bp
  | .bx => r.bx

/-- The displacement as a 16-bit addend: an 8-bit one is sign-extended (R93). -/
def Disp.addend : Disp → Word
  | .none => 0
  | .d8 v => sext16 v
  | .d16 v => v

/-- The effective address of a based operand, modulo 2^16 (R92). -/
def Regs.ea (r : Regs) (b : EaBase) (disp : Disp) : Word := r.base b + Disp.addend disp

/-- `ResolveRM`: the r/m operand with the registers as they are before the instruction (R92, R127). -/
def State.resolveRm (s : State) (w : Width) : RmOperand → Operand w
  | .reg n => .reg n
  | .direct a => .mem a
  | .based b disp => .mem (s.regs.ea b disp)

/-- The immediate at the destination's width: one byte for a word destination is sign-extended (R94, R170).
Two bytes for a byte destination have no encoding; the low byte is the total function's answer (log entry 18). -/
def immVal : (w : Width) → Imm → w.Val
  | .byte, .imm8 v => v
  | .byte, .imm16 v => loByte v
  | .word, .imm8 v => sext16 v
  | .word, .imm16 v => v

/-- The destination of REG_MEM and DEFAULT (R97). -/
def State.rmRegDst (s : State) (d : Direction) (w : Width) (rm : RmOperand) (reg : RegNum) : Operand w :=
  match d with
  | .toReg => .reg reg
  | .toRm => s.resolveRm w rm

/-- The source of REG_MEM and DEFAULT (R97). -/
def State.rmRegSrc (s : State) (d : Direction) (w : Width) (rm : RmOperand) (reg : RegNum) : Operand w :=
  match d with
  | .toReg => s.resolveRm w rm
  | .toRm => .reg reg

/-! ### Operand access -/

/-- `ReadOp` (R125), with the state after the read: a memory read issues a request and, under INERT, draws. -/
def State.readOp (s : State) {w : Width} : Operand w → w.Val × State
  | .reg n => (s.readReg w n, s)
  | .mem a => s.memRead w a
  | .imm v => (v, s)

/-- `WriteOp` (R126); no rule writes an immediate, so that case changes nothing. -/
def State.writeOp (s : State) {w : Width} (o : Operand w) (v : w.Val) : State :=
  match o with
  | .reg n => s.writeReg w n v
  | .mem a => s.memWrite w a v
  | .imm _ => s

/-- The trace's view of a destination that the instruction does not read (R135). -/
def State.observeOp (s : State) {w : Width} : Operand w → w.Val × State
  | .reg n => (s.readReg w n, s)
  | .mem a => s.memObserve w a
  | .imm v => (v, s)

/-! ### Display text (R108, R109; log entry 14) -/

/-- A signed number in decimal, negative ones with a minus sign (R109). -/
def intText (v : Int) : String :=
  if v < 0 then "-" ++ toString v.natAbs else toString v.natAbs

/-- The displacement after the base registers: ` + d` or ` - |d|` if it is not zero, read as signed (R108). -/
def signedTail (v : Int) : String :=
  if v = 0 then "" else if v < 0 then " - " ++ toString v.natAbs else " + " ++ toString v.natAbs

/-- A register's name in lower case (R21, R23, R108). -/
def regText : Width → RegNum → String
  | .word, .r0 => "ax"
  | .word, .r1 => "cx"
  | .word, .r2 => "dx"
  | .word, .r3 => "bx"
  | .word, .r4 => "sp"
  | .word, .r5 => "bp"
  | .word, .r6 => "si"
  | .word, .r7 => "di"
  | .byte, .r0 => "al"
  | .byte, .r1 => "cl"
  | .byte, .r2 => "dl"
  | .byte, .r3 => "bl"
  | .byte, .r4 => "ah"
  | .byte, .r5 => "ch"
  | .byte, .r6 => "dh"
  | .byte, .r7 => "bh"

/-- The base registers joined by ` + ` (R91, R108). -/
def baseText : EaBase → String
  | .bxSi => "bx + si"
  | .bxDi => "bx + di"
  | .bpSi => "bp + si"
  | .bpDi => "bp + di"
  | .si => "si"
  | .di => "di"
  | .bp => "bp"
  | .bx => "bx"

/-- The displacement's text. -/
def dispText : Disp → String
  | .none => ""
  | .d8 v => signedTail v.toInt
  | .d16 v => signedTail v.toInt

/-- The text of an r/m operand (R108). -/
def rmText (w : Width) : RmOperand → String
  | .reg n => regText w n
  | .direct a => "[" ++ toString a.toNat ++ "]"
  | .based b disp => "[" ++ baseText b ++ dispText disp ++ "]"

/-- The text of an immediate: its raw bytes read as signed (R109). -/
def immText : Imm → String
  | .imm8 v => intText v.toInt
  | .imm16 v => intText v.toInt

/-- `byte` or `word` before a memory destination of an immediate form (R108). -/
def sizedRmText (w : Width) (rm : RmOperand) : String :=
  match rm, w with
  | .reg n, w => regText w n
  | rm, .byte => "byte " ++ rmText .byte rm
  | rm, .word => "word " ++ rmText .word rm

end Sys2Proof.Machine
end

