-- ==== Sys2Proof/Machine/Trace.lean ====
section
/-! DEFINITION. The trace record of a completed instruction (spec/40_execution.md R135). -/

namespace Sys2Proof.Machine

/-- The record's mnemonic. -/
def mnemonicOf : Instr → Mnemonic
  | .movRmReg _ _ _ _ => .mov
  | .movRegImm _ _ _ => .mov
  | .addRmReg _ _ _ _ => .add
  | .subRmReg _ _ _ _ => .sub
  | .cmpRmReg _ _ _ _ => .cmp
  | .addRmImm _ _ _ _ => .add
  | .subRmImm _ _ _ _ => .sub
  | .cmpRmImm _ _ _ _ => .cmp
  | .addAccImm _ _ _ => .add
  | .subAccImm _ _ _ => .sub
  | .cmpAccImm _ _ _ => .cmp
  | .jzRel8 _ => .jz

/-- A mnemonic's spelling (R135). -/
def Mnemonic.text : Mnemonic → String
  | .mov => "mov"
  | .add => "add"
  | .sub => "sub"
  | .cmp => "cmp"
  | .jz => "jz"

/-- The text of REG_MEM's and DEFAULT's destination (R97, R108). -/
def rmRegDstText (d : Direction) (w : Width) (rm : RmOperand) (reg : RegNum) : String :=
  match d with
  | .toReg => regText w reg
  | .toRm => rmText w rm

/-- The text of REG_MEM's and DEFAULT's source (R97, R108). -/
def rmRegSrcText (d : Direction) (w : Width) (rm : RmOperand) (reg : RegNum) : String :=
  match d with
  | .toReg => rmText w rm
  | .toRm => regText w reg

/-- The destination's display text; a jump shows its target, here + 2 + signed(disp) modulo 2^16 (R108). -/
def dstTextOf (here : Word) : Instr → String
  | .movRmReg d w rm reg => rmRegDstText d w rm reg
  | .movRegImm w reg _ => regText w reg
  | .addRmReg d w rm reg => rmRegDstText d w rm reg
  | .subRmReg d w rm reg => rmRegDstText d w rm reg
  | .cmpRmReg d w rm reg => rmRegDstText d w rm reg
  | .addRmImm _ w rm _ => sizedRmText w rm
  | .subRmImm _ w rm _ => sizedRmText w rm
  | .cmpRmImm _ w rm _ => sizedRmText w rm
  | .addAccImm _ w _ => regText w .r0
  | .subAccImm _ w _ => regText w .r0
  | .cmpAccImm _ w _ => regText w .r0
  | .jzRel8 disp => toString (here + 2 + sext16 disp).toNat

/-- The source's display text; none for JZ (R135). -/
def srcTextOf : Instr → Option String
  | .movRmReg d w rm reg => some (rmRegSrcText d w rm reg)
  | .movRegImm _ _ imm => some (immText imm)
  | .addRmReg d w rm reg => some (rmRegSrcText d w rm reg)
  | .subRmReg d w rm reg => some (rmRegSrcText d w rm reg)
  | .cmpRmReg d w rm reg => some (rmRegSrcText d w rm reg)
  | .addRmImm _ _ _ imm => some (immText imm)
  | .subRmImm _ _ _ imm => some (immText imm)
  | .cmpRmImm _ _ _ imm => some (immText imm)
  | .addAccImm _ _ imm => some (immText imm)
  | .subAccImm _ _ imm => some (immText imm)
  | .cmpAccImm _ _ imm => some (immText imm)
  | .jzRel8 _ => none

/-- The operand width; none for JZ (R97, R135). -/
def widthOf : Instr → Option Width
  | .movRmReg _ w _ _ => some w
  | .movRegImm w _ _ => some w
  | .addRmReg _ w _ _ => some w
  | .subRmReg _ w _ _ => some w
  | .cmpRmReg _ w _ _ => some w
  | .addRmImm _ w _ _ => some w
  | .subRmImm _ w _ _ => some w
  | .cmpRmImm _ w _ _ => some w
  | .addAccImm _ w _ => some w
  | .subAccImm _ w _ => some w
  | .cmpAccImm _ w _ => some w
  | .jzRel8 _ => none

/-- The trace record of an instruction fetched in this state: `bytes` are `code[here .. here+len-1]` (R135). -/
def State.record (s : State) (i : Instr) (pre post : Value) : TraceRecord :=
  { mnemonic := mnemonicOf i
    dstText := dstTextOf s.fetchAddr i
    srcText := srcTextOf i
    width := widthOf i
    bytes := (s.streamFrom s.fetchAddr).take i.length
    here := s.fetchAddr
    pre := pre
    post := post }

end Sys2Proof.Machine
end

