-- ==== Sys2Proof/Machine/Arith.lean ====
section
/-! DEFINITION. The arithmetic and compare instructions (spec/42_arithmetic.md). -/

namespace Sys2Proof.Machine

/-- `add_N`: the sum modulo 2^N (R169). -/
def addN {w : Width} (a b : w.Val) : w.Val := a + b

/-- `sub_N`: the difference modulo 2^N (R169). -/
def subN {w : Width} (a b : w.Val) : w.Val := a - b

/-- The shared rule of ADD and SUB: read the destination, read the source, write the result, set the flags from it
(R160, R161). -/
def State.runArith (s : State) (i : Instr) {w : Width} (f : w.Val → w.Val → w.Val) (dst src : Operand w) : State :=
  let a := (s.advance i.length).readOp dst
  let b := a.2.readOp src
  let r := f a.1 b.1
  let s' := (b.2.writeOp dst r).setFlags w r
  s'.emit (s.record i (Value.ofVal w a.1) (Value.ofVal w r))

/-- The shared rule of CMP: the flags of the difference, and no write to the destination (R162). -/
def State.runCmp (s : State) (i : Instr) {w : Width} (dst src : Operand w) : State :=
  let a := (s.advance i.length).readOp dst
  let b := a.2.readOp src
  let s' := b.2.setFlags w (subN a.1 b.1)
  s'.emit (s.record i (Value.ofVal w a.1) (Value.ofVal w a.1))

/-- ADD r/m <-> reg (R160). -/
def execAddRmReg (d : Direction) (w : Width) (rm : RmOperand) (reg : RegNum) (s : State) : Result :=
  .next (s.runArith (.addRmReg d w rm reg) addN (s.rmRegDst d w rm reg) (s.rmRegSrc d w rm reg))

/-- SUB r/m <-> reg (R161). -/
def execSubRmReg (d : Direction) (w : Width) (rm : RmOperand) (reg : RegNum) (s : State) : Result :=
  .next (s.runArith (.subRmReg d w rm reg) subN (s.rmRegDst d w rm reg) (s.rmRegSrc d w rm reg))

/-- CMP r/m <-> reg (R162). -/
def execCmpRmReg (d : Direction) (w : Width) (rm : RmOperand) (reg : RegNum) (s : State) : Result :=
  .next (s.runCmp (.cmpRmReg d w rm reg) (s.rmRegDst d w rm reg) (s.rmRegSrc d w rm reg))

/-- ADD r/m, imm (R163). -/
def execAddRmImm (sx : Bool) (w : Width) (rm : RmOperand) (imm : Imm) (s : State) : Result :=
  .next (s.runArith (.addRmImm sx w rm imm) addN (s.resolveRm w rm) (.imm (immVal w imm)))

/-- SUB r/m, imm (R164). -/
def execSubRmImm (sx : Bool) (w : Width) (rm : RmOperand) (imm : Imm) (s : State) : Result :=
  .next (s.runArith (.subRmImm sx w rm imm) subN (s.resolveRm w rm) (.imm (immVal w imm)))

/-- CMP r/m, imm (R165). -/
def execCmpRmImm (sx : Bool) (w : Width) (rm : RmOperand) (imm : Imm) (s : State) : Result :=
  .next (s.runCmp (.cmpRmImm sx w rm imm) (s.resolveRm w rm) (.imm (immVal w imm)))

/-- ADD acc, imm: the accumulator is `Reg(w, 0)` (R166, R97). -/
def execAddAccImm (x : Bool) (w : Width) (imm : Imm) (s : State) : Result :=
  .next (s.runArith (w := w) (.addAccImm x w imm) addN (.reg .r0) (.imm (immVal w imm)))

/-- SUB acc, imm (R167). -/
def execSubAccImm (x : Bool) (w : Width) (imm : Imm) (s : State) : Result :=
  .next (s.runArith (w := w) (.subAccImm x w imm) subN (.reg .r0) (.imm (immVal w imm)))

/-- CMP acc, imm (R168). -/
def execCmpAccImm (x : Bool) (w : Width) (imm : Imm) (s : State) : Result :=
  .next (s.runCmp (w := w) (.cmpAccImm x w imm) (.reg .r0) (.imm (immVal w imm)))

end Sys2Proof.Machine
end

