-- ==== Sys2Proof/Machine/Control.lean ====
section
/-! DEFINITION. The control transfer (spec/43_control.md). -/

namespace Sys2Proof.Machine

/-- The jump on ZF, in a state whose ip is already `next`: a taken jump adds the sign-extended displacement (R190). -/
def State.jumpIfZero (s : State) (disp : Byte) : State :=
  if s.zf then { s with ip := s.ip + sext16 disp } else s

/-- JZ rel8 (R190). The record's pre and post are ip before and after the step (R135). -/
def execJzRel8 (disp : Byte) (s : State) : Result :=
  let s' := (s.advance (Instr.jzRel8 disp).length).jumpIfZero disp
  .next (s'.emit (s.record (.jzRel8 disp) (.word s.ip) (.word s'.ip)))

end Sys2Proof.Machine
end

