-- ==== Sys2Proof/Machine/Move.lean ====
section
/-! DEFINITION. The move instructions (spec/41_move.md). A meaning takes the state before the step and answers the state
after it: the cycle's writes (R120, R122), the instruction's own, and its trace record. -/

namespace Sys2Proof.Machine

/-- MOV's shared rule: copy the source to the destination verbatim (R150, R151), with the flags of R129. -/
def State.runMov (s : State) (i : Instr) {w : Width} (dst src : Operand w) : State :=
  let o := (s.advance i.length).observeOp dst
  let b := o.2.readOp src
  let s' := (b.2.writeOp dst b.1).setFlagsMov w b.1
  s'.emit (s.record i (Value.ofVal w o.1) (Value.ofVal w b.1))

/-- MOV r/m <-> reg (R150). -/
def execMovRmReg (d : Direction) (w : Width) (rm : RmOperand) (reg : RegNum) (s : State) : Result :=
  .next (s.runMov (.movRmReg d w rm reg) (s.rmRegDst d w rm reg) (s.rmRegSrc d w rm reg))

/-- MOV reg, imm (R151). -/
def execMovRegImm (w : Width) (reg : RegNum) (imm : Imm) (s : State) : Result :=
  .next (s.runMov (w := w) (.movRegImm w reg imm) (.reg reg) (.imm (immVal w imm)))

end Sys2Proof.Machine
end

