-- ==== Sys2Proof/Machine/Dispatch.lean ====
section
/-! DEFINITION. One arm for each constructor of Instr. -/

namespace Sys2Proof.Machine

def exec (i : Instr) (s : State) : Host.Outcome State Fault Refusal :=
  match i with
  -- 41_move.md
  | .movRmReg d w rm reg => Sys2Proof.Machine.execMovRmReg d w rm reg s
  | .movRegImm w reg imm => Sys2Proof.Machine.execMovRegImm w reg imm s
  -- 42_arithmetic.md
  | .addRmReg d w rm reg => Sys2Proof.Machine.execAddRmReg d w rm reg s
  | .subRmReg d w rm reg => Sys2Proof.Machine.execSubRmReg d w rm reg s
  | .cmpRmReg d w rm reg => Sys2Proof.Machine.execCmpRmReg d w rm reg s
  | .addRmImm sx w rm imm => Sys2Proof.Machine.execAddRmImm sx w rm imm s
  | .subRmImm sx w rm imm => Sys2Proof.Machine.execSubRmImm sx w rm imm s
  | .cmpRmImm sx w rm imm => Sys2Proof.Machine.execCmpRmImm sx w rm imm s
  | .addAccImm x w imm => Sys2Proof.Machine.execAddAccImm x w imm s
  | .subAccImm x w imm => Sys2Proof.Machine.execSubAccImm x w imm s
  | .cmpAccImm x w imm => Sys2Proof.Machine.execCmpAccImm x w imm s
  -- 43_control.md
  | .jzRel8 disp => Sys2Proof.Machine.execJzRel8 disp s

end Sys2Proof.Machine
end

