-- ==== Sys2Proof/Machine/Step.lean ====
section
/-! DEFINITION. One step of the block (spec/40_execution.md R120). -/

namespace Sys2Proof.Machine

/-- The step: what `State.fetch` says comes next, an instruction by its meaning (R120). -/
def step (s : State) : Host.Outcome State Fault Refusal :=
  match s.fetch with
  | .refuse r => .refused r
  | .stop f => .fault f
  | .halt => .next s.halt
  | .raise kind here examined => .next (s.raise kind here examined)
  | .run i => exec i s

/-- `s` with a table number's bytes at the fetch address of the stream (log entries 1 and 11). -/
def State.withFetchWord (s : State) (nbits w : Nat) : State := s.placeAtFetch (tableBytes nbits w)

end Sys2Proof.Machine
end

