-- ==== Sys2Proof/Safety.lean ====
section
/-! DEFINITION. The terms in which statements speak of a step: the invariant of a run, what an instruction writes and what
it leaves, and the value of an operand. They are written over reads, not over the updates the meanings use. -/

namespace Sys2Proof.Machine

/-- What every step keeps, and every launch starts with. -/
structure Inv (s : State) : Prop where
  /-- Data memory is in canonical form. -/
  memWf : Memory.wf s.mem = true
  /-- Under INERT there is no data memory (R20, R54). -/
  noInertMem : s.cfg.memoryModel = .inert → s.mem = []
  /-- The reserved flag bits read as 0 (R27): the mask is every bit but 6 and 7. -/
  reservedFlags : s.flags &&& 0xFF3F#16 = 0#16
  /-- The launch is one that is not refused (R50, R72). -/
  launchOk : s.launchProblem = none
  /-- The cursor never exceeds the stream's length (R33). -/
  cursorInStream : s.cursor.toNat ≤ s.code.length

/-- The value `ReadOp` gives for an operand in a state (R125, R55): a register, the bytes of BACKED memory, the next free
value under INERT, or the immediate itself. -/
def State.operandValue (s : State) {w : Width} : Operand w → w.Val
  | .reg n => s.readReg w n
  | .mem a =>
    match s.cfg.memoryModel with
    | .backed => s.peek w a
    | .inert => s.drawn w
  | .imm v => v

/-- `Reg(w, n)` holds v, and every other register is as before: for a byte, every other byte view and the four cells
without views (R21, R23, R24). -/
def RegWritten (s t : State) (w : Width) (n : RegNum) (v : w.Val) : Prop :=
  match w, v with
  | .word, v => t.regs.get n = v ∧ ∀ m, m ≠ n → t.regs.get m = s.regs.get m
  | .byte, v =>
    t.regs.get8 n = v ∧ (∀ m, m ≠ n → t.regs.get8 m = s.regs.get8 m) ∧
      t.regs.sp = s.regs.sp ∧ t.regs.bp = s.regs.bp ∧ t.regs.si = s.regs.si ∧ t.regs.di = s.regs.di

/-- Every byte of data memory reads as before. -/
def MemSame (s t : State) : Prop := ∀ b : Word, t.byteAt b = s.byteAt b

/-- The bytes of `MemWrite(a, 1 + w, v)` under BACKED, every other byte as before; under INERT every byte as before
(R56, R57). -/
def MemWritten (s t : State) (w : Width) (a : Word) (v : w.Val) : Prop :=
  match s.cfg.memoryModel with
  | .inert => MemSame s t
  | .backed =>
    match w, v with
    | .byte, v => t.byteAt a = v ∧ ∀ b, b ≠ a → t.byteAt b = s.byteAt b
    | .word, v =>
      t.byteAt a = loByte v ∧ t.byteAt (a + 1#16) = hiByte v ∧ ∀ b, b ≠ a → b ≠ a + 1#16 → t.byteAt b = s.byteAt b

/-- The destination holds v and no other register or byte of memory changed (R126). No rule writes an immediate. -/
def DstWritten (s t : State) {w : Width} (dst : Operand w) (v : w.Val) : Prop :=
  match dst with
  | .reg n => RegWritten s t w n v ∧ MemSame s t
  | .mem a => t.regs = s.regs ∧ MemWritten s t w a v
  | .imm _ => False

/-- ZF and SF are those of the result r, and no other flag bit changed (R128). -/
def FlagsOf (s t : State) (w : Width) (r : w.Val) : Prop :=
  t.zf = decide (r = 0) ∧ t.sf = r.getLsbD (w.bits - 1) ∧ ∀ k, k ≠ 6 → k ≠ 7 → t.flag k = s.flag k

/-- The parts of a state that no instruction writes (R20, R205), the cursor's rule (R33, R122), and the model's own count
of free values, which only INERT memory moves. -/
def CycleKept (s t : State) (len : Nat) : Prop :=
  t.status = s.status ∧ t.cfg = s.cfg ∧ t.code = s.code ∧
    (t.cursor = if s.cfg.fetchMode = .linear then s.fetchAddr + BitVec.ofNat 16 len else s.cursor) ∧
    (s.cfg.memoryModel = .backed → t.draws = s.draws)

/-- The read request of an operand on the data-memory port (R41, R58). -/
def readRequests {w : Width} : Operand w → List PortRequest
  | .mem a => [.read a w]
  | .reg _ => []
  | .imm _ => []

/-- The write request of a destination on the data-memory port (R41, R58). -/
def writeRequests {w : Width} (v : w.Val) : Operand w → List PortRequest
  | .mem a => [.write a (Value.ofVal w v)]
  | .reg _ => []
  | .imm _ => []

/-- What a completed ADD or SUB leaves, r being its result (R160, R161): the destination, the flags, ip and cursor, the
port requests and the trace record, and everything else as before. -/
def ArithDone (i : Instr) (s t : State) {w : Width} (dst src : Operand w) (r : w.Val) : Prop :=
  DstWritten s t dst r ∧ FlagsOf s t w r ∧ t.ip = s.fetchAddr + BitVec.ofNat 16 i.length ∧ CycleKept s t i.length ∧
    t.port = s.port ++ readRequests dst ++ readRequests src ++ writeRequests r dst ∧
    t.trace = s.trace ++ [s.record i (Value.ofVal w (s.operandValue dst)) (Value.ofVal w r)]

/-- What a completed CMP leaves, r being the difference (R162): no register and no byte of memory changed. -/
def CmpDone (i : Instr) (s t : State) {w : Width} (dst src : Operand w) (r : w.Val) : Prop :=
  t.regs = s.regs ∧ MemSame s t ∧ FlagsOf s t w r ∧ t.ip = s.fetchAddr + BitVec.ofNat 16 i.length ∧
    CycleKept s t i.length ∧ t.port = s.port ++ readRequests dst ++ readRequests src ∧
    t.trace = s.trace ++ [s.record i (Value.ofVal w (s.operandValue dst)) (Value.ofVal w (s.operandValue dst))]

/-- What a completed MOV leaves, v being the source's value (R150, R151, R129). -/
def MovDone (i : Instr) (s t : State) {w : Width} (dst src : Operand w) (v : w.Val) : Prop :=
  DstWritten s t dst v ∧ (if s.cfg.movWritesFlags then FlagsOf s t w v else t.flags = s.flags) ∧
    t.ip = s.fetchAddr + BitVec.ofNat 16 i.length ∧ CycleKept s t i.length ∧
    t.port = s.port ++ readRequests src ++ writeRequests v dst ∧
    t.trace = s.trace ++ [s.record i (Value.ofVal w (s.operandValue dst)) (Value.ofVal w v)]

/-- A displacement as a signed number (R90, R93). -/
def dispValue : Disp → Int
  | .none => 0
  | .d8 v => v.toInt
  | .d16 v => v.toInt

/-- The fault record's place in a state: the status alone is written (R206, R207). -/
def faultedAt (s : State) (kind : FaultKind) (examined : Nat) : State :=
  { s with status := .faulted ⟨kind, s.fetchAddr, (s.code.drop s.fetchAddr.toNat).take examined⟩ }

/-- Whether an instruction writes the flags under these parameters (R28). -/
def writesFlags (cfg : LaunchConfig) (i : Instr) : Bool :=
  match mnemonicOf i with
  | .add => true
  | .sub => true
  | .cmp => true
  | .mov => cfg.movWritesFlags
  | .jz => false

/-- Two states that agree on everything but the flags register. -/
def SameButFlags (s t : State) : Prop := { s with flags := t.flags } = t

/-- What a writer of the flags makes of two flags words: the same ZF and SF in `t` and in `t'`, and in `t'` the other bits of
the word `f` it started from (R27, R28). -/
def SameZfSf (t t' : State) (f : Word) : Prop :=
  t'.zf = t.zf ∧ t'.sf = t.sf ∧ ∀ k, k ≠ 6 → k ≠ 7 → t'.flag k = f.getLsbD k

end Sys2Proof.Machine
end

