-- ==== Sys2Proof/Certificates/Slice0/Obligations.lean ====
section
/-! DEFINITION. The statements for the provers. Each docstring names the rule it formalises; the hypotheses are met by the
witnesses of Sys2Proof/Tests/Slice0.lean. -/

open Sys2Proof Sys2Proof.Machine

/-! ### Reset and launch -/

/-- R35: what every piece of state holds at the start of a run, for every launch that is not refused; nothing has been put
out yet (the two output lists are the model's own, log entries 7 and 8). -/
def Obligations.LaunchSetsResetValues : Prop :=
  ∀ (cfg : LaunchConfig) (code img : List Byte), img.length = 65536 → jzOpcodeAllowed cfg.jzOpcode = true →
    code.length ≤ 0xFFFF →
    ∃ s, State.launch cfg code img = .next s ∧ (∀ n, s.readReg .word n = 0#16) ∧ (∀ n, s.readReg .byte n = 0#8) ∧
      s.flags = 0#16 ∧ s.ip = 0#16 ∧ s.cursor = 0#16 ∧ s.status = .running ∧ s.cfg = cfg ∧ s.code = code ∧
      (cfg.memoryModel = .backed → ∀ a : Word, s.byteAt a = img.getD a.toNat 0#8) ∧ s.trace = [] ∧ s.port = []

/-- The model's choice (log entries 3, 4 and 11): `State.reset` is the launch with the default parameters, an empty stream
and a memory of zeros. -/
def Obligations.ResetIsTheDefaultLaunch : Prop :=
  ∀ img : List Byte, img.length = 65536 → (∀ b ∈ img, b = 0#8) → State.launch Config.default [] img = .next State.reset

/-- R72 and R50: which launches are refused, the ranges of `JZ_OPCODE` written out. For a launch that is both hidden and too
long the rules say only that it is refused: that the name is that of the `JZ_OPCODE` is the model's choice (log entry 10). -/
def Obligations.LaunchRefusedOutsideParameters : Prop :=
  ∀ (cfg : LaunchConfig) (code img : List Byte),
    let jz := cfg.jzOpcode.toNat
    let inRanges := (0x04 ≤ jz ∧ jz ≤ 0x07) ∨ (0x2C ≤ jz ∧ jz ≤ 0x2F) ∨ (0x3C ≤ jz ∧ jz ≤ 0x3F) ∨
      (0x80 ≤ jz ∧ jz ≤ 0x83) ∨ (0x88 ≤ jz ∧ jz ≤ 0x8B) ∨ (0xB0 ≤ jz ∧ jz ≤ 0xBF)
    (inRanges → State.launch cfg code img = .refused (.jzOpcodeHidden cfg.jzOpcode)) ∧
      (¬ inRanges → 0xFFFF < code.length → State.launch cfg code img = .refused (.streamTooLong code.length)) ∧
      (¬ inRanges → code.length ≤ 0xFFFF → ∃ s, State.launch cfg code img = .next s)

/-- R72: the launch may use exactly the bytes no earlier predicate hides. -/
def Obligations.JzOpcodeAllowedWhenNotHidden : Prop :=
  ∀ jz : Byte, jzOpcodeAllowed jz = true ↔ classify jz jz = .shortJump

/-! ### Registers and flags -/

/-- R23 and R24: where each byte view lies, and that a byte write keeps the other byte of its cell and every other cell. -/
def Obligations.ByteViewsShareTheirCells : Prop :=
  ∀ (s : State) (v : Byte),
    let r := s.regs
    (s.readReg .byte .r0 = r.ax.extractLsb' 0 8 ∧ s.readReg .byte .r1 = r.cx.extractLsb' 0 8 ∧
      s.readReg .byte .r2 = r.dx.extractLsb' 0 8 ∧ s.readReg .byte .r3 = r.bx.extractLsb' 0 8 ∧
      s.readReg .byte .r4 = r.ax.extractLsb' 8 8 ∧ s.readReg .byte .r5 = r.cx.extractLsb' 8 8 ∧
      s.readReg .byte .r6 = r.dx.extractLsb' 8 8 ∧ s.readReg .byte .r7 = r.bx.extractLsb' 8 8) ∧
    ((s.writeReg .byte .r0 v).regs = { r with ax := r.ax.extractLsb' 8 8 ++ v } ∧
      (s.writeReg .byte .r1 v).regs = { r with cx := r.cx.extractLsb' 8 8 ++ v } ∧
      (s.writeReg .byte .r2 v).regs = { r with dx := r.dx.extractLsb' 8 8 ++ v } ∧
      (s.writeReg .byte .r3 v).regs = { r with bx := r.bx.extractLsb' 8 8 ++ v } ∧
      (s.writeReg .byte .r4 v).regs = { r with ax := v ++ r.ax.extractLsb' 0 8 } ∧
      (s.writeReg .byte .r5 v).regs = { r with cx := v ++ r.cx.extractLsb' 0 8 } ∧
      (s.writeReg .byte .r6 v).regs = { r with dx := v ++ r.dx.extractLsb' 0 8 } ∧
      (s.writeReg .byte .r7 v).regs = { r with bx := v ++ r.bx.extractLsb' 0 8 }) ∧
    (∀ (n : RegNum) (u : Word), (s.writeReg .word n u).readReg .word n = u)

/-- R128: the flags updater, for a result r read as a number. -/
def Obligations.FlagsUpdaterIsWidthAware : Prop :=
  ∀ (s : State) (w : Width) (r : w.Val),
    let t := s.setFlags w r
    t.zf = decide (r.toNat = 0) ∧ t.sf = decide (2 ^ (w.bits - 1) ≤ r.toNat) ∧
      (∀ k, k ≠ 6 → k ≠ 7 → t.flags.getLsbD k = s.flags.getLsbD k) ∧ { t with flags := s.flags } = s

/-- R169: sums and differences modulo 2^N, the same bits whether the operands are read as unsigned or as signed numbers. -/
def Obligations.ArithmeticWrapsAtItsWidth : Prop :=
  ∀ (w : Width) (a b : w.Val),
    (addN a b).toNat = (a.toNat + b.toNat) % 2 ^ w.bits ∧
      ((subN a b).toNat : Int) = ((a.toNat : Int) - (b.toNat : Int)) % (2 ^ w.bits : Int) ∧
      ((addN a b).toNat : Int) = (a.toInt + b.toInt) % (2 ^ w.bits : Int) ∧
      ((subN a b).toNat : Int) = (a.toInt - b.toInt) % (2 ^ w.bits : Int)

/-- R94: a one-byte immediate of a word destination is sign-extended; the other forms are used as they stand. -/
def Obligations.ImmediateAtDestinationWidth : Prop :=
  (∀ v : Byte, (immVal .word (.imm8 v)).toInt = v.toInt) ∧ (∀ v : Byte, immVal .byte (.imm8 v) = v) ∧
    (∀ v : Word, immVal .word (.imm16 v) = v)

/-! ### Data memory -/

/-- R55: what a data-memory read gives under BACKED and under INERT, and that no byte changes. The INERT value is the free
value of the model's own counter, which moves past it (log entry 5): nothing is known of it. -/
def Obligations.DataReadsAreLittleEndian : Prop :=
  ∀ (s : State) (a : Word),
    (s.cfg.memoryModel = .backed →
      (s.memRead .byte a).1 = s.byteAt a ∧
        (s.memRead .word a).1.toNat = (s.byteAt (a + 1#16)).toNat * 256 + (s.byteAt a).toNat) ∧
      (s.cfg.memoryModel = .inert →
        (s.memRead .byte a).1 = (Config.freeDraw s.draws).extractLsb' 0 8 ∧
          (s.memRead .word a).1 = Config.freeDraw s.draws ∧ ∀ w, (s.memRead w a).2.draws = s.draws + 1) ∧
      (∀ w b, (s.memRead w a).2.byteAt b = s.byteAt b)

/-- R56: the bytes a data-memory write changes, under BACKED and under INERT; the word at 0xFFFF wraps (R57). -/
def Obligations.DataWritesAreLittleEndian : Prop :=
  ∀ (s : State) (a : Word), Memory.wf s.mem = true →
    (s.cfg.memoryModel = .backed →
      (∀ (v : Byte) (b : Word), (s.memWrite .byte a v).byteAt b = if b = a then v else s.byteAt b) ∧
        (∀ (v : Word) (b : Word), (s.memWrite .word a v).byteAt b =
          if b = a then BitVec.ofNat 8 (v.toNat % 256) else if b = a + 1#16 then BitVec.ofNat 8 (v.toNat / 256)
          else s.byteAt b) ∧
        (∀ v : Word, (s.memWrite .word 0xFFFF#16 v).byteAt 0x0000#16 = BitVec.ofNat 8 (v.toNat / 256))) ∧
      (s.cfg.memoryModel = .inert → ∀ w (v : w.Val), (s.memWrite w a v).mem = s.mem)

/-- R62, for one write and the read after it. -/
def Obligations.ReadReturnsTheLastWrite : Prop :=
  ∀ (s : State) (w : Width) (a : Word) (v : w.Val), Memory.wf s.mem = true → s.cfg.memoryModel = .backed →
    ((s.memWrite w a v).memRead w a).1 = v

/-! ### Operand resolution and display -/

/-- R90 to R93: the operand of every r/m form, its effective address as a sum modulo 2^16 with a signed displacement. -/
def Obligations.EffectiveAddressTable : Prop :=
  ∀ (s : State) (w : Width) (disp : Disp),
    let r := s.regs
    let at_ (b : EaBase) (sum : Nat) : Prop :=
      ∃ a : Word, s.resolveRm w (.based b disp) = .mem a ∧ (a.toNat : Int) = ((sum : Int) + dispValue disp) % 65536
    at_ .bxSi (r.bx.toNat + r.si.toNat) ∧ at_ .bxDi (r.bx.toNat + r.di.toNat) ∧ at_ .bpSi (r.bp.toNat + r.si.toNat) ∧
      at_ .bpDi (r.bp.toNat + r.di.toNat) ∧ at_ .si r.si.toNat ∧ at_ .di r.di.toNat ∧ at_ .bp r.bp.toNat ∧
      at_ .bx r.bx.toNat ∧ (∀ n, s.resolveRm w (.reg n) = .reg n) ∧ ∀ a, s.resolveRm w (.direct a) = .mem a

/-- R109: an immediate's text is the two's-complement reading of its raw bytes, with a minus sign if the top bit is set. -/
def Obligations.NegativeImmediatesShowAMinus : Prop :=
  (∀ v : Byte, immText (.imm8 v) =
    if 0x80 ≤ v.toNat then "-" ++ toString (0x100 - v.toNat) else toString v.toNat) ∧
    ∀ v : Word, immText (.imm16 v) =
      if 0x8000 ≤ v.toNat then "-" ++ toString (0x10000 - v.toNat) else toString v.toNat

/-! ### Encoding -/

/-- A word of each pattern, written out bit by bit from R80, decodes to its instruction. -/
def Obligations.SpecWordsDecode : Prop :=
  decode 0x74#8 [0b10001001, 0b11011001] = .ok (.movRmReg .toRm .word (.reg .r1) .r3, []) ∧
    decode 0x74#8 [0b10111000, 0b00000101, 0b00000000] = .ok (.movRegImm .word .r0 (.imm16 5), []) ∧
    decode 0x74#8 [0b00101010, 0b00100001] = .ok (.subRmReg .toReg .byte (.based .bxDi .none) .r4, []) ∧
    decode 0x74#8 [0b10000011, 0b01101110, 0b11111110, 0b00000001] =
      .ok (.subRmImm true .word (.based .bp (.d8 0xFE)) (.imm8 1), []) ∧
    decode 0x74#8 [0b00111101, 0b00000000, 0b11111110] = .ok (.cmpAccImm false .word (.imm16 0xFE00), []) ∧
    decode 0x74#8 [0b01110100, 0b11111011] = .ok (.jzRel8 0xFB, [])

/-- R80, R90, R94: the decoder gives back every well-formed instruction from its encoding, with every operand, for every
allowed `JZ_OPCODE` that is not itself the instruction's byte 0. -/
def Obligations.DecodeOfEncode : Prop :=
  ∀ (jz : Byte) (i : Instr) (rest : List Byte), jzOpcodeAllowed jz = true → i.wf = true → i.hiddenBy jz = false →
    decode jz (encode jz i ++ rest) = .ok (i, rest)

/-- Every byte sequence has one meaning: what decodes is well-formed, and the bytes consumed are its encoding. -/
def Obligations.EncodeOfDecode : Prop :=
  ∀ (jz : Byte) (bs rest : List Byte) (i : Instr), decode jz bs = .ok (i, rest) →
    i.wf = true ∧ bs = encode jz i ++ rest

/-- R104: re-slicing the stream by the decoded length and decoding the slice alone gives the same instruction. -/
def Obligations.DecodingASliceAgain : Prop :=
  ∀ (jz : Byte) (bs rest : List Byte) (i : Instr), jzOpcodeAllowed jz = true → decode jz bs = .ok (i, rest) →
    decode jz (bs.take i.length) = .ok (i, []) ∧ bs.drop i.length = rest ∧ i.length + rest.length = bs.length

/-- R100 and R101: the lengths that occur, from the header's fields in the bytes: the forms with a byte 1 have 2 bytes, the
displacement of mod and rm, and for IMM_TO_RM the immediate. -/
def Obligations.InstructionLengths : Prop :=
  ∀ (jz : Byte) (bs rest : List Byte) (i : Instr), decode jz bs = .ok (i, rest) →
    let mod := (byteAt bs 1).toNat / 64
    let rmCode := (byteAt bs 1).toNat % 8
    let dlen := if mod = 3 then 0 else if mod = 0 then (if rmCode = 6 then 2 else 0) else if mod = 1 then 1 else 2
    2 ≤ i.length ∧ i.length ≤ 6 ∧ (∀ disp, i = .jzRel8 disp → i.length = 2) ∧
      (∀ w reg imm, i = .movRegImm w reg imm → i.length = if w = .word then 3 else 2) ∧
      (∀ x w imm, i = .addAccImm x w imm ∨ i = .subAccImm x w imm ∨ i = .cmpAccImm x w imm →
        i.length = if w = .word then 3 else 2) ∧
      (∀ d w rm reg,
        i = .movRmReg d w rm reg ∨ i = .addRmReg d w rm reg ∨ i = .subRmReg d w rm reg ∨ i = .cmpRmReg d w rm reg →
        i.length = 2 + dlen) ∧
      (∀ sx w rm imm, i = .addRmImm sx w rm imm ∨ i = .subRmImm sx w rm imm ∨ i = .cmpRmImm sx w rm imm →
        i.length = 2 + dlen + if sx = false ∧ w = .word then 2 else 1)

/-- R105: what each byte 0 begins, for the default `JZ_OPCODE`: 49 values begin an instruction of the operation the map
gives, the other 207 are UnknownOperation with one byte examined, and 0x80 to 0x83 depend on op3. -/
def Obligations.OpcodeMap : Prop :=
  ∀ (b0 : Byte) (tl : List Byte), 5 ≤ tl.length →
    let n := b0.toNat
    let op3 := (byteAt tl 0).toNat / 8 % 8
    let gives (m : Mnemonic) : Prop := ∃ i rest, decode 0x74#8 (b0 :: tl) = .ok (i, rest) ∧ mnemonicOf i = m
    (n ≤ 0x07 → gives .add) ∧ (0x28 ≤ n ∧ n ≤ 0x2F → gives .sub) ∧ (0x38 ≤ n ∧ n ≤ 0x3F → gives .cmp) ∧
      (n = 0x74 → gives .jz) ∧ (0x88 ≤ n ∧ n ≤ 0x8B → gives .mov) ∧ (0xB0 ≤ n ∧ n ≤ 0xBF → gives .mov) ∧
      (0x80 ≤ n ∧ n ≤ 0x83 →
        (op3 = 0 → gives .add) ∧ (op3 = 5 → gives .sub) ∧ (op3 = 7 → gives .cmp) ∧
          (op3 ≠ 0 ∧ op3 ≠ 5 ∧ op3 ≠ 7 → decode 0x74#8 (b0 :: tl) = .error ⟨.unknownOperation, 2⟩)) ∧
      (¬ (n ≤ 0x07 ∨ (0x28 ≤ n ∧ n ≤ 0x2F) ∨ (0x38 ≤ n ∧ n ≤ 0x3F) ∨ n = 0x74 ∨ (0x80 ≤ n ∧ n ≤ 0x83) ∨
          (0x88 ≤ n ∧ n ≤ 0x8B) ∨ (0xB0 ≤ n ∧ n ≤ 0xBF)) →
        decode 0x74#8 (b0 :: tl) = .error ⟨.unknownOperation, 1⟩)

/-- R201 and R202: no input raises RangeViolation or UnhandledPattern (where the two checks stand is log entry 13). -/
def Obligations.DefensiveFaultsUnreachable : Prop :=
  ∀ (jz : Byte) (bs : List Byte) (e : DecodeError), decode jz bs = .error e →
    e.kind ≠ .rangeViolation ∧ e.kind ≠ .unhandledPattern

/-! ### The step -/

/-- R120, R121: when the stream's bytes at the fetch address decode to an instruction, the step is that instruction's
meaning; the fetch address is ip in FOLLOW and the cursor in LINEAR. -/
def Obligations.StepRunsTheDecodedInstruction : Prop :=
  ∀ (s : State) (i : Instr) (rest : List Byte), s.launchProblem = none → s.status = .running →
    decode s.cfg.jzOpcode (s.code.drop s.fetchAddr.toNat) = .ok (i, rest) →
    step s = exec i s ∧ i.wf = true ∧ s.fetchAddr = if s.cfg.fetchMode = .linear then s.cursor else s.ip

/-- R123 and R43: at the stream's end the step halts, changes nothing else, and exposes the dump in its order. -/
def Obligations.HaltAtTheStreamsEnd : Prop :=
  ∀ s : State, s.launchProblem = none → s.status = .running → s.fetchAddr.toNat = s.code.length →
    step s = .next { s with status := .halted } ∧
      State.dump { s with status := .halted } =
        some [s.readReg .word .r0, s.readReg .word .r3, s.readReg .word .r1, s.readReg .word .r2, s.readReg .word .r4,
          s.readReg .word .r5, s.readReg .word .r6, s.readReg .word .r7]

/-- R34, R206, R218: HALTED and FAULTED are final. That no step is taken is a stuck state under the model's own name
(log entry 9). -/
def Obligations.EndedRunsTakeNoStep : Prop :=
  ∀ s : State, s.launchProblem = none →
    (s.status = .halted → step s = .fault .halted) ∧ ∀ r, s.status = .faulted r → step s = .fault (.faulted r)

/-- R208 with R203, R204, R206 and R207: the checks of a step in their order, the first that fails being the fault, and
the record of each. -/
def Obligations.FaultChecksInOrder : Prop :=
  ∀ s : State, s.launchProblem = none → s.status = .running →
    let here := s.fetchAddr.toNat
    let room := s.code.length - here
    let b0 := byteAt (s.code.drop here) 0
    let op3 := (byteAt (s.code.drop here) 1).toNat / 8 % 8
    let oneByteHeader := b0 = s.cfg.jzOpcode ∨
      b0.toNat ∈ [0x04, 0x05, 0x06, 0x07, 0x2C, 0x2D, 0x2E, 0x2F, 0x3C, 0x3D, 0x3E, 0x3F] ∨ 0xB0 ≤ b0.toNat ∧ b0.toNat ≤ 0xBF
    let immToRm := 0x80 ≤ b0.toNat ∧ b0.toNat ≤ 0x83
    let twoByteHeader := b0.toNat ∈ [0x00, 0x01, 0x02, 0x03, 0x28, 0x29, 0x2A, 0x2B, 0x38, 0x39, 0x3A, 0x3B] ∨ immToRm ∨
      0x88 ≤ b0.toNat ∧ b0.toNat ≤ 0x8B
    let badOp3 := immToRm ∧ op3 ≠ 0 ∧ op3 ≠ 5 ∧ op3 ≠ 7
    let len := (fieldsOf (classify s.cfg.jzOpcode b0) b0 (byteAt (s.code.drop here) 1)).len
    (s.code.length < here → step s = .next { s with status := .faulted ⟨.streamExhaustion, s.fetchAddr, []⟩ }) ∧
    (here < s.code.length → ¬ oneByteHeader → ¬ twoByteHeader →
      step s = .next { s with status := .faulted ⟨.unknownOperation, s.fetchAddr, [b0]⟩ }) ∧
    (room = 1 → ¬ oneByteHeader → twoByteHeader → step s = .next (faultedAt s .streamExhaustion room)) ∧
    (2 ≤ room → ¬ oneByteHeader → badOp3 → step s = .next (faultedAt s .unknownOperation 2)) ∧
    (1 ≤ room → (oneByteHeader ∨ 2 ≤ room ∧ twoByteHeader ∧ ¬ badOp3) → room < len →
      step s = .next (faultedAt s .streamExhaustion room)) ∧
    (1 ≤ room → (oneByteHeader ∨ 2 ≤ room ∧ twoByteHeader ∧ ¬ badOp3) → len ≤ room →
      ∃ i, i.length = len ∧ step s = exec i s)

/-- R206: a fault leaves everything but the status as it was, with no trace record, and the run is over. -/
def Obligations.FaultsArePrecise : Prop :=
  ∀ (s t : State) (r : FaultRecord), step s = .next t → t.status = .faulted r →
    t = { s with status := .faulted r } ∧ s.status = .running ∧ r.here = s.fetchAddr ∧
      (∃ k, r.seen = (s.code.drop s.fetchAddr.toNat).take k) ∧ step t = .fault (.faulted r)

/-- R205: no fault is raised after decoding: every instruction completes in every state, and the status stays. -/
def Obligations.ExecutionNeverFaults : Prop :=
  ∀ (i : Instr) (s : State), ∃ t, exec i s = .next t ∧ t.status = s.status

/-- R20, R50, R53: no step writes the stream or the launch parameters. -/
def Obligations.LaunchDataNeverWritten : Prop :=
  ∀ s t : State, step s = .next t → t.code = s.code ∧ t.cfg = s.cfg

/-- R122, with R190's target for JZ: what every completed instruction does to ip and to the cursor. That FOLLOW leaves the
cursor is read from R120 and R33 (DEDUCED, log entry 17). -/
def Obligations.IpAndCursorAdvance : Prop :=
  ∀ (i : Instr) (s t : State), exec i s = .next t →
    ((∀ disp, i ≠ .jzRel8 disp) → t.ip.toNat = (s.fetchAddr.toNat + i.length) % 65536) ∧
      (∀ disp, i = .jzRel8 disp → (t.ip.toNat : Int) =
        ((s.fetchAddr.toNat : Int) + 2 + if s.zf then disp.toInt else 0) % 65536) ∧
      (s.cfg.fetchMode = .linear → t.cursor.toNat = (s.fetchAddr.toNat + i.length) % 65536) ∧
      (s.cfg.fetchMode = .follow → t.cursor = s.cursor)

/-! ### The instructions' results and frames -/

/-- R160, R163, R166: every form of ADD (addRmReg, addRmImm, addAccImm) completes in every state, writes the sum to its
destination, and leaves what `ArithDone` says. The canonical form of data memory is an invariant (`InvariantKept`).
An INERT operand's value is a free value (log entry 5). -/
def Obligations.AddCompletes : Prop :=
  ∀ s : State, Memory.wf s.mem = true →
    (∀ (d : Direction) (w : Width) (rm : RmOperand) (reg : RegNum), ∃ t, exec (.addRmReg d w rm reg) s = .next t ∧
      ArithDone (.addRmReg d w rm reg) s t (s.rmRegDst d w rm reg) (s.rmRegSrc d w rm reg)
        (s.operandValue (s.rmRegDst d w rm reg) + s.operandValue (s.rmRegSrc d w rm reg))) ∧
    (∀ (sx : Bool) (w : Width) (rm : RmOperand) (imm : Imm), ∃ t, exec (.addRmImm sx w rm imm) s = .next t ∧
      ArithDone (.addRmImm sx w rm imm) s t (s.resolveRm w rm) (.imm (immVal w imm))
        (s.operandValue (s.resolveRm w rm) + immVal w imm)) ∧
    (∀ (x : Bool) (w : Width) (imm : Imm), ∃ t, exec (.addAccImm x w imm) s = .next t ∧
      ArithDone (w := w) (.addAccImm x w imm) s t (.reg .r0) (.imm (immVal w imm)) (s.readReg w .r0 + immVal w imm))

/-- R161, R164, R167: every form of SUB (subRmReg, subRmImm, subAccImm) completes, with the destination as the minuend. -/
def Obligations.SubCompletes : Prop :=
  ∀ s : State, Memory.wf s.mem = true →
    (∀ (d : Direction) (w : Width) (rm : RmOperand) (reg : RegNum), ∃ t, exec (.subRmReg d w rm reg) s = .next t ∧
      ArithDone (.subRmReg d w rm reg) s t (s.rmRegDst d w rm reg) (s.rmRegSrc d w rm reg)
        (s.operandValue (s.rmRegDst d w rm reg) - s.operandValue (s.rmRegSrc d w rm reg))) ∧
    (∀ (sx : Bool) (w : Width) (rm : RmOperand) (imm : Imm), ∃ t, exec (.subRmImm sx w rm imm) s = .next t ∧
      ArithDone (.subRmImm sx w rm imm) s t (s.resolveRm w rm) (.imm (immVal w imm))
        (s.operandValue (s.resolveRm w rm) - immVal w imm)) ∧
    (∀ (x : Bool) (w : Width) (imm : Imm), ∃ t, exec (.subAccImm x w imm) s = .next t ∧
      ArithDone (w := w) (.subAccImm x w imm) s t (.reg .r0) (.imm (immVal w imm)) (s.readReg w .r0 - immVal w imm))

/-- R162, R165, R168: every form of CMP (cmpRmReg, cmpRmImm, cmpAccImm) completes, sets the flags of the difference, and
changes no register and no byte of memory. -/
def Obligations.CmpCompletes : Prop :=
  ∀ s : State,
    (∀ (d : Direction) (w : Width) (rm : RmOperand) (reg : RegNum), ∃ t, exec (.cmpRmReg d w rm reg) s = .next t ∧
      CmpDone (.cmpRmReg d w rm reg) s t (s.rmRegDst d w rm reg) (s.rmRegSrc d w rm reg)
        (s.operandValue (s.rmRegDst d w rm reg) - s.operandValue (s.rmRegSrc d w rm reg))) ∧
    (∀ (sx : Bool) (w : Width) (rm : RmOperand) (imm : Imm), ∃ t, exec (.cmpRmImm sx w rm imm) s = .next t ∧
      CmpDone (.cmpRmImm sx w rm imm) s t (s.resolveRm w rm) (.imm (immVal w imm))
        (s.operandValue (s.resolveRm w rm) - immVal w imm)) ∧
    (∀ (x : Bool) (w : Width) (imm : Imm), ∃ t, exec (.cmpAccImm x w imm) s = .next t ∧
      CmpDone (w := w) (.cmpAccImm x w imm) s t (.reg .r0) (.imm (immVal w imm)) (s.readReg w .r0 - immVal w imm))

/-- R150, R151: both forms of MOV (movRmReg, movRegImm) complete and copy the source's value to the destination.
The trace's pre-value of an INERT destination is a free value (log entry 6). -/
def Obligations.MovCompletes : Prop :=
  ∀ s : State, Memory.wf s.mem = true →
    (∀ (d : Direction) (w : Width) (rm : RmOperand) (reg : RegNum), ∃ t, exec (.movRmReg d w rm reg) s = .next t ∧
      MovDone (.movRmReg d w rm reg) s t (s.rmRegDst d w rm reg) (s.rmRegSrc d w rm reg)
        (s.operandValue (s.rmRegSrc d w rm reg))) ∧
    (∀ (w : Width) (reg : RegNum) (imm : Imm), ∃ t, exec (.movRegImm w reg imm) s = .next t ∧
      MovDone (w := w) (.movRegImm w reg imm) s t (.reg reg) (.imm (immVal w imm)) (immVal w imm))

/-- R190: JZ completes in every state, adds its signed displacement to the next address when ZF is set, and changes no
register, no flag and no byte of memory. -/
def Obligations.JzCompletes : Prop :=
  ∀ (s : State) (disp : Byte), ∃ t, exec (.jzRel8 disp) s = .next t ∧
    (t.ip.toNat : Int) = ((s.fetchAddr.toNat : Int) + 2 + if s.zf then disp.toInt else 0) % 65536 ∧
    t.regs = s.regs ∧ t.flags = s.flags ∧ MemSame s t ∧ CycleKept s t 2 ∧ t.port = s.port ∧
    t.trace = s.trace ++ [s.record (.jzRel8 disp) (.word s.ip) (.word t.ip)]

/-- R28: which instructions write the flags register: ADD, SUB and CMP always, MOV when the launch says so, JZ never; the
reserved bits never. -/
def Obligations.FlagWriters : Prop :=
  ∀ (i : Instr) (s t : State), exec i s = .next t →
    (∀ k, k ≠ 6 → k ≠ 7 → t.flags.getLsbD k = s.flags.getLsbD k) ∧
      (mnemonicOf i = .jz ∨ mnemonicOf i = .mov ∧ s.cfg.movWritesFlags = false → t.flags = s.flags) ∧
      (¬ (mnemonicOf i = .jz ∨ mnemonicOf i = .mov ∧ s.cfg.movWritesFlags = false) →
        ∃ (w : Width) (r : w.Val), widthOf i = some w ∧ FlagsOf s t w r)

/-- R29: no instruction but JZ reads the flags register: another flags word at the start changes nothing of the result but
what the instruction leaves of that word itself. A writer gives the same ZF and SF, and an instruction that writes no flags
leaves the whole word. -/
def Obligations.OnlyJzReadsTheFlags : Prop :=
  ∀ (i : Instr) (s t : State) (f : Word), (∀ disp, i ≠ .jzRel8 disp) → exec i s = .next t →
    ∃ t', exec i { s with flags := f } = .next t' ∧ SameButFlags t t' ∧
      (writesFlags s.cfg i = true → SameZfSf t t' f) ∧ (writesFlags s.cfg i = false → t'.flags = f)

/-- R29: no step reads SF or a reserved bit. Two flags words with the same ZF give the same step, and again the same ZF; a
step that runs a writer of the flags gives the same SF too, and every other step leaves the word it started from. -/
def Obligations.OnlyZfIsEverRead : Prop :=
  ∀ (s t : State) (f : Word), f.getLsbD 6 = s.flags.getLsbD 6 → step s = .next t →
    ∃ t', step { s with flags := f } = .next t' ∧ SameButFlags t t' ∧ t'.zf = t.zf ∧
      (∀ i rest, decode s.cfg.jzOpcode (s.code.drop s.fetchAddr.toNat) = .ok (i, rest) → writesFlags s.cfg i = true →
        SameZfSf t t' f) ∧
      ((∀ i rest, decode s.cfg.jzOpcode (s.code.drop s.fetchAddr.toNat) = .ok (i, rest) → writesFlags s.cfg i = false) →
        t.flags = s.flags ∧ t'.flags = f)

/-- R55, R56: under INERT no step reads or writes the bytes of data memory. -/
def Obligations.InertMemoryIsNeverRead : Prop :=
  ∀ (s t : State) (m : Memory), s.cfg.memoryModel = .inert → step s = .next t →
    step { s with mem := m } = .next { t with mem := m } ∧ t.mem = s.mem

/-- R58, R41: a step issues at most one read and at most one write, the read first, both at the same address and width. -/
def Obligations.AtMostOneReadThenOneWrite : Prop :=
  ∀ s t : State, step s = .next t →
    ∃ reqs, t.port = s.port ++ reqs ∧
      (reqs = [] ∨ ∃ (a : Word) (w : Width) (v : w.Val),
        reqs = [.read a w] ∨ reqs = [.write a (Value.ofVal w v)] ∨ reqs = [.read a w, .write a (Value.ofVal w v)])

/-- R54: the short move, the accumulator forms, JZ and every form with two registers never access data memory. -/
def Obligations.RegisterFormsNeverAccessMemory : Prop :=
  ∀ (i : Instr) (s t : State), exec i s = .next t →
    ((∃ w reg imm, i = .movRegImm w reg imm) ∨ (∃ x w imm, i = .addAccImm x w imm) ∨
      (∃ x w imm, i = .subAccImm x w imm) ∨ (∃ x w imm, i = .cmpAccImm x w imm) ∨ (∃ disp, i = .jzRel8 disp) ∨
      (∃ d w n reg, i = .movRmReg d w (.reg n) reg ∨ i = .addRmReg d w (.reg n) reg ∨ i = .subRmReg d w (.reg n) reg ∨
        i = .cmpRmReg d w (.reg n) reg) ∨
      ∃ sx w n imm, i = .addRmImm sx w (.reg n) imm ∨ i = .subRmImm sx w (.reg n) imm ∨ i = .cmpRmImm sx w (.reg n) imm) →
    t.port = s.port ∧ t.mem = s.mem ∧ t.draws = s.draws

/-- R135, R136: a step that runs an instruction emits one record, with the bytes consumed and their offset; a halt or a
fault emits none. -/
def Obligations.OneTraceRecordPerInstruction : Prop :=
  ∀ s t : State, step s = .next t →
    (t.status ≠ .running → t.trace = s.trace) ∧
      (t.status = .running → ∃ (i : Instr) (rest : List Byte) (r : TraceRecord),
        decode s.cfg.jzOpcode (s.code.drop s.fetchAddr.toNat) = .ok (i, rest) ∧ t.trace = s.trace ++ [r] ∧
          r.here = s.fetchAddr ∧ r.bytes = encode s.cfg.jzOpcode i ∧ r.mnemonic = mnemonicOf i ∧ r.width = widthOf i)

/-! ### Whole runs -/

/-- Every step keeps the invariant: canonical data memory, reserved flag bits 0 (R27), the cursor inside the stream (R33). -/
def Obligations.InvariantKept : Prop := ∀ s t : State, Inv s → step s = .next t → Inv t

/-- The invariant holds right after reset. -/
def Obligations.InvariantAtReset : Prop := Inv State.reset

/-- The invariant holds at the start of every launch that is not refused. -/
def Obligations.InvariantAtLaunch : Prop :=
  ∀ (cfg : LaunchConfig) (code img : List Byte) (s : State), State.launch cfg code img = .next s → Inv s

/-- R33: in LINEAR the cursor never goes back and never passes the stream's end; in FOLLOW it stays. -/
def Obligations.CursorIsMonotone : Prop :=
  ∀ s t : State, Inv s → step s = .next t →
    s.cursor.toNat ≤ t.cursor.toNat ∧ t.cursor.toNat ≤ t.code.length ∧
      (s.cfg.fetchMode = .follow → t.cursor = s.cursor)

/-- R235, LINEAR: from every running state the run ends, within half the bytes that remain and one step more. -/
def Obligations.LinearRunsEnd : Prop :=
  ∀ s : State, Inv s → s.status = .running → s.cfg.fetchMode = .linear →
    ∃ (k : Nat) (t : State), k ≤ (s.code.length - s.cursor.toNat) / 2 + 1 ∧ Sys2Proof.core.run k s = .next t ∧
      t.status ≠ .running

/-- R235, FOLLOW: a taken JZ to itself never ends, and only the trace grows. -/
def Obligations.TakenSelfJumpNeverEnds : Prop :=
  ∀ (s : State) (rest : List Byte), s.launchProblem = none → s.status = .running → s.cfg.fetchMode = .follow →
    s.zf = true → s.code.drop s.ip.toNat = s.cfg.jzOpcode :: 0xFE#8 :: rest →
    ∀ k : Nat, ∃ t : State, Sys2Proof.core.run k s = .next t ∧ t.status = .running ∧ t.ip = s.ip ∧ t.regs = s.regs ∧
      t.flags = s.flags ∧ t.mem = s.mem ∧ t.trace.length = s.trace.length + k

/-- R200: the four fault kinds, no other, and the numeric code of each, which R207's record carries. -/
def Obligations.FaultCodes : Prop :=
  (∀ k : FaultKind, k = .rangeViolation ∨ k = .unhandledPattern ∨ k = .unknownOperation ∨ k = .streamExhaustion) ∧
    FaultKind.code .rangeViolation = 1 ∧ FaultKind.code .unhandledPattern = 2 ∧
    FaultKind.code .unknownOperation = 3 ∧ FaultKind.code .streamExhaustion = 4
end

