-- ==== Sys2Proof/Laws/Decode.lean ====
section
/-! SUPPORT. The decoder's fields and the encoder's bytes undo each other, field by field. -/

namespace Sys2Proof

@[simp] theorem RegNum.ofBits_toBits (n : RegNum) : RegNum.ofBits n.toBits = n := by
  cases n <;> rfl

@[simp] theorem RegNum.toBits_ofBits (b : BitVec 3) : (RegNum.ofBits b).toBits = b := by
  revert b; decide

@[simp] theorem EaBase.ofBits_toBits (b : EaBase) : EaBase.ofBits b.toBits = b := by
  cases b <;> rfl

@[simp] theorem EaBase.toBits_ofBits (b : BitVec 3) : (EaBase.ofBits b).toBits = b := by
  revert b; decide

@[simp] theorem Width.ofBit_bit (w : Width) : Width.ofBit w.bit = w := by
  cases w <;> rfl

@[simp] theorem Width.bit_ofBit (b : BitVec 1) : (Width.ofBit b).bit = b := by
  revert b; decide

@[simp] theorem Direction.ofBit_bit (d : Direction) : Direction.ofBit d.bit = d := by
  cases d <;> rfl

@[simp] theorem Direction.bit_ofBit (b : BitVec 1) : (Direction.ofBit b).bit = b := by
  revert b; decide

@[simp] theorem boolOfBit_bitOfBool (b : Bool) : boolOfBit (bitOfBool b) = b := by
  cases b <;> rfl

@[simp] theorem bitOfBool_boolOfBit (b : BitVec 1) : bitOfBool (boolOfBit b) = b := by
  revert b; decide

/-- Byte 0 of a 6-bit opcode form is its three fields (R80). -/
theorem opcodeByte_selector (b0 : Byte) :
    opcodeByte (selector b0) (b0.extractLsb' 1 1) (Width.ofBit (b0.extractLsb' 0 1)) = b0 := by
  revert b0; decide

/-- Byte 0 of the short move is its constant and two fields (R80). -/
theorem shortMoveByte (b0 : Byte) :
    (b0.extractLsb' 4 4 ++ b0.extractLsb' 3 1 ++ b0.extractLsb' 0 3 : Byte) = b0 := by
  revert b0; decide

/-- Byte 1 is its three fields (R80). -/
theorem modRegRmByte (b1 : Byte) :
    (b1.extractLsb' 6 2 ++ b1.extractLsb' 3 3 ++ b1.extractLsb' 0 3 : Byte) = b1 := by
  revert b1; decide

theorem selector_opcodeByte (op6 : BitVec 6) (b : BitVec 1) (w : Width) : selector (opcodeByte op6 b w) = op6 := by
  cases w <;> revert op6 b <;> decide

theorem dBit_opcodeByte (op6 : BitVec 6) (b : BitVec 1) (w : Width) : (opcodeByte op6 b w).extractLsb' 1 1 = b := by
  cases w <;> revert op6 b <;> decide

theorem wBit_opcodeByte (op6 : BitVec 6) (b : BitVec 1) (w : Width) :
    Width.ofBit ((opcodeByte op6 b w).extractLsb' 0 1) = w := by
  cases w <;> revert op6 b <;> decide

theorem modBits_append (m : BitVec 2) (r b : BitVec 3) : (m ++ r ++ b : Byte).extractLsb' 6 2 = m := by
  revert m r b; decide

theorem regBits_append (m : BitVec 2) (r b : BitVec 3) : (m ++ r ++ b : Byte).extractLsb' 3 3 = r := by
  revert m r b; decide

theorem rmBits_append (m : BitVec 2) (r b : BitVec 3) : (m ++ r ++ b : Byte).extractLsb' 0 3 = b := by
  revert m r b; decide

/-- Reading a word's two stream bytes gives the word (R51). -/
@[simp] theorem wordAt_wordBytes (v : Word) (rest : List Byte) : wordAt (wordBytes v ++ rest) 0 = v := by
  apply BitVec.eq_of_getLsbD_eq
  intro k hk
  show (joinBytes (hiByte v) (loByte v)).getLsbD k = v.getLsbD k
  rw [joinBytes, BitVec.getLsbD_append (x := hiByte v) (y := loByte v), hiByte, loByte, BitVec.getLsbD_extractLsb',
    BitVec.getLsbD_extractLsb']
  by_cases h : k < 8
  · simp [h]
  · simp [h, show k - 8 < 8 by omega, show 8 + (k - 8) = k by omega]

/-- The displacement bytes are as many as R90 says. -/
@[simp] theorem RmOperand.length_dispBytes (rm : RmOperand) : rm.dispBytes.length = rm.dispLen := by
  rcases rm with n | a | ⟨b, _ | v | v⟩ <;> rfl

/-- The r/m operand of its own mod, rm and displacement bytes is itself, if it is well-formed (R90). -/
theorem rmOf_encoded (rm : RmOperand) (rest : List Byte) (h : rm.wf = true) :
    rmOf rm.modBits rm.rmBits (rm.dispBytes ++ rest) = rm := by
  rcases rm with n | a | ⟨b, _ | v | v⟩
  · simp [rmOf, RmOperand.modBits, RmOperand.rmBits]
  · simp [rmOf, RmOperand.modBits, RmOperand.rmBits, RmOperand.dispBytes]
  · cases b <;>
      simp_all [RmOperand.wf, rmOf, RmOperand.modBits, RmOperand.rmBits, EaBase.toBits, EaBase.ofBits]
  · simp [rmOf, RmOperand.modBits, RmOperand.rmBits, RmOperand.dispBytes, byteAt]
  · simp [rmOf, RmOperand.modBits, RmOperand.rmBits, RmOperand.dispBytes]

end Sys2Proof
end

