-- ==== Sys2Proof/Laws/Memory.lean ====
section
/-! SUPPORT. Data memory: a read after a write, the canonical form every operation keeps, and equality by reads. -/

namespace Sys2Proof.Machine

theorem Memory.get_entry (m : Memory) (a : Nat) (v : Byte) (h : Memory.get m a = Memory.unlisted) (b : Nat) :
    Memory.get (Memory.entry a v m) b = if b = a then v else Memory.get m b := by
  unfold Memory.entry
  by_cases hv : v = Memory.unlisted
  · by_cases hb : b = a
    · simp [hv, hb, h]
    · simp [hv, hb]
  · simp [hv, Memory.get]

theorem Memory.get_below (m : Memory) (lo a : Nat) (h : Memory.wfFrom lo m = true) (ha : a < lo) :
    Memory.get m a = Memory.unlisted := by
  induction m generalizing lo with
  | nil => rfl
  | cons c m ih =>
    simp only [Memory.wfFrom, Bool.and_eq_true, decide_eq_true_eq] at h
    rw [Memory.get, if_neg (by omega)]
    exact ih (c.1 + 1) h.2 (by omega)

theorem Memory.wfFrom_mono (m : Memory) (lo lo' : Nat) (h : Memory.wfFrom lo m = true) (hl : lo' ≤ lo) :
    Memory.wfFrom lo' m = true := by
  cases m with
  | nil => rfl
  | cons c m =>
    simp only [Memory.wfFrom, Bool.and_eq_true, decide_eq_true_eq] at h ⊢
    exact ⟨⟨⟨by omega, h.1.1.2⟩, h.1.2⟩, h.2⟩

theorem Memory.wfFrom_entry (m : Memory) (a : Nat) (v : Byte) (h : Memory.wfFrom (a + 1) m = true) (ha : a < 65536)
    (lo : Nat) (hl : lo ≤ a) : Memory.wfFrom lo (Memory.entry a v m) = true := by
  unfold Memory.entry
  by_cases hv : v = Memory.unlisted
  · simpa [hv] using Memory.wfFrom_mono m _ lo h (by omega)
  · simp [hv, Memory.wfFrom, hl, ha, h]

/-- A read after a write gives the value written at its address and leaves every other address alone. -/
theorem Memory.get_set (m : Memory) (lo a b : Nat) (v : Byte) (h : Memory.wfFrom lo m = true) :
    Memory.get (Memory.set m a v) b = if b = a then v else Memory.get m b := by
  induction m generalizing lo with
  | nil => simpa [Memory.set] using Memory.get_entry [] a v rfl b
  | cons c m ih =>
    simp only [Memory.wfFrom, Bool.and_eq_true, decide_eq_true_eq] at h
    unfold Memory.set
    split
    · next hlt => exact Memory.get_entry _ a v (Memory.get_below _ c.1 a (by simp [Memory.wfFrom, h.1.1.2, h.1.2, h.2]) hlt) b
    · next hlt =>
      split
      · next heq =>
        subst heq
        rw [Memory.get_entry m c.1 v (Memory.get_below m _ _ h.2 (by omega)) b]
        by_cases hb : b = c.1 <;> simp [hb, Memory.get]
      · next hne =>
        simp only [Memory.get, ih (c.1 + 1) h.2]
        by_cases hb : b = c.1
        · have : ¬ c.1 = a := fun e => hne e.symm
          simp [hb, this]
        · simp [hb]

/-- A write keeps the canonical form. -/
theorem Memory.wfFrom_set (m : Memory) (lo a : Nat) (v : Byte) (h : Memory.wfFrom lo m = true) (hl : lo ≤ a)
    (ha : a < 65536) : Memory.wfFrom lo (Memory.set m a v) = true := by
  induction m generalizing lo with
  | nil => exact Memory.wfFrom_entry [] a v rfl ha lo hl
  | cons c m ih =>
    simp only [Memory.wfFrom, Bool.and_eq_true, decide_eq_true_eq] at h
    unfold Memory.set
    split
    · next hlt =>
      refine Memory.wfFrom_entry _ a v ?_ ha lo hl
      simp only [Memory.wfFrom, Bool.and_eq_true, decide_eq_true_eq]
      exact ⟨⟨⟨by omega, h.1.1.2⟩, h.1.2⟩, h.2⟩
    · split
      · next heq => exact Memory.wfFrom_entry m a v (heq ▸ h.2) ha lo hl
      · simp only [Memory.wfFrom, Bool.and_eq_true, decide_eq_true_eq]
        exact ⟨h.1, ih _ h.2 (by omega)⟩

theorem Memory.wf_set (m : Memory) (a : Word) (v : Byte) (h : Memory.wf m = true) :
    Memory.wf (Memory.set m a.toNat v) = true :=
  Memory.wfFrom_set m 0 a.toNat v h (Nat.zero_le _) a.isLt

theorem Memory.wfFrom_ofImageFrom (img : List Byte) (lo a : Nat) (hl : lo ≤ a) (h : a + img.length ≤ 65536) :
    Memory.wfFrom lo (Memory.ofImageFrom a img) = true := by
  induction img generalizing lo a with
  | nil => rfl
  | cons v vs ih =>
    simp only [List.length_cons] at h
    exact Memory.wfFrom_entry _ a v (ih (a + 1) (a + 1) le_rfl (by omega)) (by omega) lo hl

/-- The memory of an image is in canonical form. -/
theorem Memory.wf_ofImage (img : List Byte) : Memory.wf (Memory.ofImage img) = true :=
  Memory.wfFrom_ofImageFrom _ 0 0 le_rfl (by simp)

theorem Memory.get_ofImageFrom (img : List Byte) (a k : Nat) (h : a + img.length ≤ 65536) :
    Memory.get (Memory.ofImageFrom a img) (a + k) = img.getD k Memory.unlisted := by
  induction img generalizing a k with
  | nil => rfl
  | cons v vs ih =>
    simp only [List.length_cons] at h
    have hlow : Memory.get (Memory.ofImageFrom (a + 1) vs) a = Memory.unlisted :=
      Memory.get_below _ (a + 1) a (Memory.wfFrom_ofImageFrom vs _ _ le_rfl (by omega)) (by omega)
    rw [Memory.ofImageFrom, Memory.get_entry _ a v hlow]
    cases k with
    | zero => simp
    | succ k =>
      have := ih (a + 1) k (by omega)
      rw [if_neg (by omega), show a + (k + 1) = a + 1 + k by omega, this]
      simp

theorem Memory.wfFrom_shift (m : Memory) (lo a : Nat) (h : Memory.wfFrom lo m = true)
    (ha : Memory.get m a ≠ Memory.unlisted) : lo ≤ a := by
  by_contra hc
  exact ha (Memory.get_below m lo a h (by omega))

/-- Two memories in canonical form that read alike are the same data. -/
theorem Memory.ext_of_get (m m' : Memory) (lo : Nat) (h : Memory.wfFrom lo m = true) (h' : Memory.wfFrom lo m' = true)
    (hg : ∀ a, Memory.get m a = Memory.get m' a) : m = m' := by
  induction m generalizing lo m' with
  | nil =>
    cases m' with
    | nil => rfl
    | cons c m' =>
      simp only [Memory.wfFrom, Bool.and_eq_true, decide_eq_true_eq] at h'
      exact absurd (hg c.1).symm (by simpa [Memory.get] using h'.1.2)
  | cons c m ih =>
    simp only [Memory.wfFrom, Bool.and_eq_true, decide_eq_true_eq] at h
    cases m' with
    | nil => exact absurd (hg c.1) (by simpa [Memory.get] using h.1.2)
    | cons c' m' =>
      simp only [Memory.wfFrom, Bool.and_eq_true, decide_eq_true_eq] at h'
      have key : c.1 = c'.1 := by
        rcases Nat.lt_trichotomy c.1 c'.1 with hlt | heq | hgt
        · have e := hg c.1
          rw [Memory.get, if_pos rfl, Memory.get, if_neg (by omega), Memory.get_below m' _ _ h'.2 (by omega)] at e
          exact absurd e h.1.2
        · exact heq
        · have e := hg c'.1
          rw [Memory.get, if_neg (by omega), Memory.get, if_pos rfl, Memory.get_below m _ _ h.2 (by omega)] at e
          exact absurd e.symm h'.1.2
      have val : c.2 = c'.2 := by simpa [Memory.get, key] using hg c.1
      have hm : m = m' := ih m' (c.1 + 1) h.2 (key ▸ h'.2) fun a => by
        by_cases ha : a = c.1
        · rw [ha, Memory.get_below m _ _ h.2 (by omega), Memory.get_below m' _ _ h'.2 (by omega)]
        · simpa [Memory.get, ha, key ▸ ha] using hg a
      rw [hm, Prod.ext key val]

end Sys2Proof.Machine
end

