-- ==== Sys2Proof/Laws/State.lean ====
section
/-! SUPPORT. What each named update does to each field of State, so that no proof unfolds a record update. -/

namespace Sys2Proof.Machine

variable (s : State)

@[simp] theorem halt_regs : s.halt.regs = s.regs := rfl
@[simp] theorem halt_flags : s.halt.flags = s.flags := rfl
@[simp] theorem halt_ip : s.halt.ip = s.ip := rfl
@[simp] theorem halt_cursor : s.halt.cursor = s.cursor := rfl
@[simp] theorem halt_status : s.halt.status = .halted := rfl
@[simp] theorem halt_mem : s.halt.mem = s.mem := rfl
@[simp] theorem halt_cfg : s.halt.cfg = s.cfg := rfl
@[simp] theorem halt_code : s.halt.code = s.code := rfl
@[simp] theorem halt_draws : s.halt.draws = s.draws := rfl
@[simp] theorem halt_trace : s.halt.trace = s.trace := rfl
@[simp] theorem halt_port : s.halt.port = s.port := rfl

@[simp] theorem raise_regs (k : FaultKind) (a : Word) (n : Nat) : (s.raise k a n).regs = s.regs := rfl
@[simp] theorem raise_flags (k : FaultKind) (a : Word) (n : Nat) : (s.raise k a n).flags = s.flags := rfl
@[simp] theorem raise_ip (k : FaultKind) (a : Word) (n : Nat) : (s.raise k a n).ip = s.ip := rfl
@[simp] theorem raise_cursor (k : FaultKind) (a : Word) (n : Nat) : (s.raise k a n).cursor = s.cursor := rfl
@[simp] theorem raise_status (k : FaultKind) (a : Word) (n : Nat) : (s.raise k a n).status = .faulted { kind := k, here := a, seen := (s.streamFrom a).take n } := rfl
@[simp] theorem raise_mem (k : FaultKind) (a : Word) (n : Nat) : (s.raise k a n).mem = s.mem := rfl
@[simp] theorem raise_cfg (k : FaultKind) (a : Word) (n : Nat) : (s.raise k a n).cfg = s.cfg := rfl
@[simp] theorem raise_code (k : FaultKind) (a : Word) (n : Nat) : (s.raise k a n).code = s.code := rfl
@[simp] theorem raise_draws (k : FaultKind) (a : Word) (n : Nat) : (s.raise k a n).draws = s.draws := rfl
@[simp] theorem raise_trace (k : FaultKind) (a : Word) (n : Nat) : (s.raise k a n).trace = s.trace := rfl
@[simp] theorem raise_port (k : FaultKind) (a : Word) (n : Nat) : (s.raise k a n).port = s.port := rfl

@[simp] theorem emit_regs (r : TraceRecord) : (s.emit r).regs = s.regs := rfl
@[simp] theorem emit_flags (r : TraceRecord) : (s.emit r).flags = s.flags := rfl
@[simp] theorem emit_ip (r : TraceRecord) : (s.emit r).ip = s.ip := rfl
@[simp] theorem emit_cursor (r : TraceRecord) : (s.emit r).cursor = s.cursor := rfl
@[simp] theorem emit_status (r : TraceRecord) : (s.emit r).status = s.status := rfl
@[simp] theorem emit_mem (r : TraceRecord) : (s.emit r).mem = s.mem := rfl
@[simp] theorem emit_cfg (r : TraceRecord) : (s.emit r).cfg = s.cfg := rfl
@[simp] theorem emit_code (r : TraceRecord) : (s.emit r).code = s.code := rfl
@[simp] theorem emit_draws (r : TraceRecord) : (s.emit r).draws = s.draws := rfl
@[simp] theorem emit_trace (r : TraceRecord) : (s.emit r).trace = s.trace ++ [r] := rfl
@[simp] theorem emit_port (r : TraceRecord) : (s.emit r).port = s.port := rfl

@[simp] theorem request_regs (r : PortRequest) : (s.request r).regs = s.regs := rfl
@[simp] theorem request_flags (r : PortRequest) : (s.request r).flags = s.flags := rfl
@[simp] theorem request_ip (r : PortRequest) : (s.request r).ip = s.ip := rfl
@[simp] theorem request_cursor (r : PortRequest) : (s.request r).cursor = s.cursor := rfl
@[simp] theorem request_status (r : PortRequest) : (s.request r).status = s.status := rfl
@[simp] theorem request_mem (r : PortRequest) : (s.request r).mem = s.mem := rfl
@[simp] theorem request_cfg (r : PortRequest) : (s.request r).cfg = s.cfg := rfl
@[simp] theorem request_code (r : PortRequest) : (s.request r).code = s.code := rfl
@[simp] theorem request_draws (r : PortRequest) : (s.request r).draws = s.draws := rfl
@[simp] theorem request_trace (r : PortRequest) : (s.request r).trace = s.trace := rfl
@[simp] theorem request_port (r : PortRequest) : (s.request r).port = s.port ++ [r] := rfl

@[simp] theorem nextDraw_regs : s.nextDraw.regs = s.regs := rfl
@[simp] theorem nextDraw_flags : s.nextDraw.flags = s.flags := rfl
@[simp] theorem nextDraw_ip : s.nextDraw.ip = s.ip := rfl
@[simp] theorem nextDraw_cursor : s.nextDraw.cursor = s.cursor := rfl
@[simp] theorem nextDraw_status : s.nextDraw.status = s.status := rfl
@[simp] theorem nextDraw_mem : s.nextDraw.mem = s.mem := rfl
@[simp] theorem nextDraw_cfg : s.nextDraw.cfg = s.cfg := rfl
@[simp] theorem nextDraw_code : s.nextDraw.code = s.code := rfl
@[simp] theorem nextDraw_draws : s.nextDraw.draws = s.draws + 1 := rfl
@[simp] theorem nextDraw_trace : s.nextDraw.trace = s.trace := rfl
@[simp] theorem nextDraw_port : s.nextDraw.port = s.port := rfl

@[simp] theorem setByte_regs (a : Word) (v : Byte) : (s.setByte a v).regs = s.regs := rfl
@[simp] theorem setByte_flags (a : Word) (v : Byte) : (s.setByte a v).flags = s.flags := rfl
@[simp] theorem setByte_ip (a : Word) (v : Byte) : (s.setByte a v).ip = s.ip := rfl
@[simp] theorem setByte_cursor (a : Word) (v : Byte) : (s.setByte a v).cursor = s.cursor := rfl
@[simp] theorem setByte_status (a : Word) (v : Byte) : (s.setByte a v).status = s.status := rfl
@[simp] theorem setByte_mem (a : Word) (v : Byte) : (s.setByte a v).mem = Memory.set s.mem a.toNat v := rfl
@[simp] theorem setByte_cfg (a : Word) (v : Byte) : (s.setByte a v).cfg = s.cfg := rfl
@[simp] theorem setByte_code (a : Word) (v : Byte) : (s.setByte a v).code = s.code := rfl
@[simp] theorem setByte_draws (a : Word) (v : Byte) : (s.setByte a v).draws = s.draws := rfl
@[simp] theorem setByte_trace (a : Word) (v : Byte) : (s.setByte a v).trace = s.trace := rfl
@[simp] theorem setByte_port (a : Word) (v : Byte) : (s.setByte a v).port = s.port := rfl

@[simp] theorem setFlag_regs (k : Nat) (b : Bool) : (s.setFlag k b).regs = s.regs := rfl
@[simp] theorem setFlag_flags (k : Nat) (b : Bool) : (s.setFlag k b).flags = putBit s.flags k b := rfl
@[simp] theorem setFlag_ip (k : Nat) (b : Bool) : (s.setFlag k b).ip = s.ip := rfl
@[simp] theorem setFlag_cursor (k : Nat) (b : Bool) : (s.setFlag k b).cursor = s.cursor := rfl
@[simp] theorem setFlag_status (k : Nat) (b : Bool) : (s.setFlag k b).status = s.status := rfl
@[simp] theorem setFlag_mem (k : Nat) (b : Bool) : (s.setFlag k b).mem = s.mem := rfl
@[simp] theorem setFlag_cfg (k : Nat) (b : Bool) : (s.setFlag k b).cfg = s.cfg := rfl
@[simp] theorem setFlag_code (k : Nat) (b : Bool) : (s.setFlag k b).code = s.code := rfl
@[simp] theorem setFlag_draws (k : Nat) (b : Bool) : (s.setFlag k b).draws = s.draws := rfl
@[simp] theorem setFlag_trace (k : Nat) (b : Bool) : (s.setFlag k b).trace = s.trace := rfl
@[simp] theorem setFlag_port (k : Nat) (b : Bool) : (s.setFlag k b).port = s.port := rfl

@[simp] theorem setFlags_regs (w : Width) (r : w.Val) : (s.setFlags w r).regs = s.regs := rfl
@[simp] theorem setFlags_flags (w : Width) (r : w.Val) : (s.setFlags w r).flags = putBit (putBit s.flags zfBit (r == 0)) sfBit r.msb := rfl
@[simp] theorem setFlags_ip (w : Width) (r : w.Val) : (s.setFlags w r).ip = s.ip := rfl
@[simp] theorem setFlags_cursor (w : Width) (r : w.Val) : (s.setFlags w r).cursor = s.cursor := rfl
@[simp] theorem setFlags_status (w : Width) (r : w.Val) : (s.setFlags w r).status = s.status := rfl
@[simp] theorem setFlags_mem (w : Width) (r : w.Val) : (s.setFlags w r).mem = s.mem := rfl
@[simp] theorem setFlags_cfg (w : Width) (r : w.Val) : (s.setFlags w r).cfg = s.cfg := rfl
@[simp] theorem setFlags_code (w : Width) (r : w.Val) : (s.setFlags w r).code = s.code := rfl
@[simp] theorem setFlags_draws (w : Width) (r : w.Val) : (s.setFlags w r).draws = s.draws := rfl
@[simp] theorem setFlags_trace (w : Width) (r : w.Val) : (s.setFlags w r).trace = s.trace := rfl
@[simp] theorem setFlags_port (w : Width) (r : w.Val) : (s.setFlags w r).port = s.port := rfl

@[simp] theorem setFlagsMov_regs (w : Width) (r : w.Val) : (s.setFlagsMov w r).regs = s.regs := by
  unfold State.setFlagsMov; split <;> rfl
@[simp] theorem setFlagsMov_flags (w : Width) (r : w.Val) : (s.setFlagsMov w r).flags = if s.cfg.movWritesFlags then (s.setFlags w r).flags else s.flags := by
  unfold State.setFlagsMov; split <;> rfl
@[simp] theorem setFlagsMov_ip (w : Width) (r : w.Val) : (s.setFlagsMov w r).ip = s.ip := by
  unfold State.setFlagsMov; split <;> rfl
@[simp] theorem setFlagsMov_cursor (w : Width) (r : w.Val) : (s.setFlagsMov w r).cursor = s.cursor := by
  unfold State.setFlagsMov; split <;> rfl
@[simp] theorem setFlagsMov_status (w : Width) (r : w.Val) : (s.setFlagsMov w r).status = s.status := by
  unfold State.setFlagsMov; split <;> rfl
@[simp] theorem setFlagsMov_mem (w : Width) (r : w.Val) : (s.setFlagsMov w r).mem = s.mem := by
  unfold State.setFlagsMov; split <;> rfl
@[simp] theorem setFlagsMov_cfg (w : Width) (r : w.Val) : (s.setFlagsMov w r).cfg = s.cfg := by
  unfold State.setFlagsMov; split <;> rfl
@[simp] theorem setFlagsMov_code (w : Width) (r : w.Val) : (s.setFlagsMov w r).code = s.code := by
  unfold State.setFlagsMov; split <;> rfl
@[simp] theorem setFlagsMov_draws (w : Width) (r : w.Val) : (s.setFlagsMov w r).draws = s.draws := by
  unfold State.setFlagsMov; split <;> rfl
@[simp] theorem setFlagsMov_trace (w : Width) (r : w.Val) : (s.setFlagsMov w r).trace = s.trace := by
  unfold State.setFlagsMov; split <;> rfl
@[simp] theorem setFlagsMov_port (w : Width) (r : w.Val) : (s.setFlagsMov w r).port = s.port := by
  unfold State.setFlagsMov; split <;> rfl

@[simp] theorem writeReg_flags (w : Width) (n : RegNum) (v : w.Val) : (s.writeReg w n v).flags = s.flags := by
  cases w <;> rfl
@[simp] theorem writeReg_ip (w : Width) (n : RegNum) (v : w.Val) : (s.writeReg w n v).ip = s.ip := by
  cases w <;> rfl
@[simp] theorem writeReg_cursor (w : Width) (n : RegNum) (v : w.Val) : (s.writeReg w n v).cursor = s.cursor := by
  cases w <;> rfl
@[simp] theorem writeReg_status (w : Width) (n : RegNum) (v : w.Val) : (s.writeReg w n v).status = s.status := by
  cases w <;> rfl
@[simp] theorem writeReg_mem (w : Width) (n : RegNum) (v : w.Val) : (s.writeReg w n v).mem = s.mem := by
  cases w <;> rfl
@[simp] theorem writeReg_cfg (w : Width) (n : RegNum) (v : w.Val) : (s.writeReg w n v).cfg = s.cfg := by
  cases w <;> rfl
@[simp] theorem writeReg_code (w : Width) (n : RegNum) (v : w.Val) : (s.writeReg w n v).code = s.code := by
  cases w <;> rfl
@[simp] theorem writeReg_draws (w : Width) (n : RegNum) (v : w.Val) : (s.writeReg w n v).draws = s.draws := by
  cases w <;> rfl
@[simp] theorem writeReg_trace (w : Width) (n : RegNum) (v : w.Val) : (s.writeReg w n v).trace = s.trace := by
  cases w <;> rfl
@[simp] theorem writeReg_port (w : Width) (n : RegNum) (v : w.Val) : (s.writeReg w n v).port = s.port := by
  cases w <;> rfl

@[simp] theorem poke_regs (w : Width) (a : Word) (v : w.Val) : (s.poke w a v).regs = s.regs := by
  cases w <;> rfl
@[simp] theorem poke_flags (w : Width) (a : Word) (v : w.Val) : (s.poke w a v).flags = s.flags := by
  cases w <;> rfl
@[simp] theorem poke_ip (w : Width) (a : Word) (v : w.Val) : (s.poke w a v).ip = s.ip := by
  cases w <;> rfl
@[simp] theorem poke_cursor (w : Width) (a : Word) (v : w.Val) : (s.poke w a v).cursor = s.cursor := by
  cases w <;> rfl
@[simp] theorem poke_status (w : Width) (a : Word) (v : w.Val) : (s.poke w a v).status = s.status := by
  cases w <;> rfl
@[simp] theorem poke_cfg (w : Width) (a : Word) (v : w.Val) : (s.poke w a v).cfg = s.cfg := by
  cases w <;> rfl
@[simp] theorem poke_code (w : Width) (a : Word) (v : w.Val) : (s.poke w a v).code = s.code := by
  cases w <;> rfl
@[simp] theorem poke_draws (w : Width) (a : Word) (v : w.Val) : (s.poke w a v).draws = s.draws := by
  cases w <;> rfl
@[simp] theorem poke_trace (w : Width) (a : Word) (v : w.Val) : (s.poke w a v).trace = s.trace := by
  cases w <;> rfl
@[simp] theorem poke_port (w : Width) (a : Word) (v : w.Val) : (s.poke w a v).port = s.port := by
  cases w <;> rfl

@[simp] theorem memRead_regs (w : Width) (a : Word) : (s.memRead w a).2.regs = s.regs := by
  cases h : s.cfg.memoryModel <;> simp [State.memRead, h]
@[simp] theorem memRead_flags (w : Width) (a : Word) : (s.memRead w a).2.flags = s.flags := by
  cases h : s.cfg.memoryModel <;> simp [State.memRead, h]
@[simp] theorem memRead_ip (w : Width) (a : Word) : (s.memRead w a).2.ip = s.ip := by
  cases h : s.cfg.memoryModel <;> simp [State.memRead, h]
@[simp] theorem memRead_cursor (w : Width) (a : Word) : (s.memRead w a).2.cursor = s.cursor := by
  cases h : s.cfg.memoryModel <;> simp [State.memRead, h]
@[simp] theorem memRead_status (w : Width) (a : Word) : (s.memRead w a).2.status = s.status := by
  cases h : s.cfg.memoryModel <;> simp [State.memRead, h]
@[simp] theorem memRead_mem (w : Width) (a : Word) : (s.memRead w a).2.mem = s.mem := by
  cases h : s.cfg.memoryModel <;> simp [State.memRead, h]
@[simp] theorem memRead_cfg (w : Width) (a : Word) : (s.memRead w a).2.cfg = s.cfg := by
  cases h : s.cfg.memoryModel <;> simp [State.memRead, h]
@[simp] theorem memRead_code (w : Width) (a : Word) : (s.memRead w a).2.code = s.code := by
  cases h : s.cfg.memoryModel <;> simp [State.memRead, h]
@[simp] theorem memRead_draws (w : Width) (a : Word) : (s.memRead w a).2.draws = if s.cfg.memoryModel = .inert then s.draws + 1 else s.draws := by
  cases h : s.cfg.memoryModel <;> simp [State.memRead, h]
@[simp] theorem memRead_trace (w : Width) (a : Word) : (s.memRead w a).2.trace = s.trace := by
  cases h : s.cfg.memoryModel <;> simp [State.memRead, h]
@[simp] theorem memRead_port (w : Width) (a : Word) : (s.memRead w a).2.port = s.port ++ [.read a w] := by
  cases h : s.cfg.memoryModel <;> simp [State.memRead, h]

@[simp] theorem memObserve_regs (w : Width) (a : Word) : (s.memObserve w a).2.regs = s.regs := by
  cases h : s.cfg.memoryModel <;> simp [State.memObserve, h]
@[simp] theorem memObserve_flags (w : Width) (a : Word) : (s.memObserve w a).2.flags = s.flags := by
  cases h : s.cfg.memoryModel <;> simp [State.memObserve, h]
@[simp] theorem memObserve_ip (w : Width) (a : Word) : (s.memObserve w a).2.ip = s.ip := by
  cases h : s.cfg.memoryModel <;> simp [State.memObserve, h]
@[simp] theorem memObserve_cursor (w : Width) (a : Word) : (s.memObserve w a).2.cursor = s.cursor := by
  cases h : s.cfg.memoryModel <;> simp [State.memObserve, h]
@[simp] theorem memObserve_status (w : Width) (a : Word) : (s.memObserve w a).2.status = s.status := by
  cases h : s.cfg.memoryModel <;> simp [State.memObserve, h]
@[simp] theorem memObserve_mem (w : Width) (a : Word) : (s.memObserve w a).2.mem = s.mem := by
  cases h : s.cfg.memoryModel <;> simp [State.memObserve, h]
@[simp] theorem memObserve_cfg (w : Width) (a : Word) : (s.memObserve w a).2.cfg = s.cfg := by
  cases h : s.cfg.memoryModel <;> simp [State.memObserve, h]
@[simp] theorem memObserve_code (w : Width) (a : Word) : (s.memObserve w a).2.code = s.code := by
  cases h : s.cfg.memoryModel <;> simp [State.memObserve, h]
@[simp] theorem memObserve_draws (w : Width) (a : Word) : (s.memObserve w a).2.draws = if s.cfg.memoryModel = .inert then s.draws + 1 else s.draws := by
  cases h : s.cfg.memoryModel <;> simp [State.memObserve, h]
@[simp] theorem memObserve_trace (w : Width) (a : Word) : (s.memObserve w a).2.trace = s.trace := by
  cases h : s.cfg.memoryModel <;> simp [State.memObserve, h]
@[simp] theorem memObserve_port (w : Width) (a : Word) : (s.memObserve w a).2.port = s.port := by
  cases h : s.cfg.memoryModel <;> simp [State.memObserve, h]

@[simp] theorem memWrite_regs (w : Width) (a : Word) (v : w.Val) : (s.memWrite w a v).regs = s.regs := by
  cases h : s.cfg.memoryModel <;> cases w <;> simp [State.memWrite, State.poke, h]
@[simp] theorem memWrite_flags (w : Width) (a : Word) (v : w.Val) : (s.memWrite w a v).flags = s.flags := by
  cases h : s.cfg.memoryModel <;> cases w <;> simp [State.memWrite, State.poke, h]
@[simp] theorem memWrite_ip (w : Width) (a : Word) (v : w.Val) : (s.memWrite w a v).ip = s.ip := by
  cases h : s.cfg.memoryModel <;> cases w <;> simp [State.memWrite, State.poke, h]
@[simp] theorem memWrite_cursor (w : Width) (a : Word) (v : w.Val) : (s.memWrite w a v).cursor = s.cursor := by
  cases h : s.cfg.memoryModel <;> cases w <;> simp [State.memWrite, State.poke, h]
@[simp] theorem memWrite_status (w : Width) (a : Word) (v : w.Val) : (s.memWrite w a v).status = s.status := by
  cases h : s.cfg.memoryModel <;> cases w <;> simp [State.memWrite, State.poke, h]
@[simp] theorem memWrite_mem (w : Width) (a : Word) (v : w.Val) : (s.memWrite w a v).mem = if s.cfg.memoryModel = .inert then s.mem else (s.poke w a v).mem := by
  cases h : s.cfg.memoryModel <;> cases w <;> simp [State.memWrite, State.poke, h]
@[simp] theorem memWrite_cfg (w : Width) (a : Word) (v : w.Val) : (s.memWrite w a v).cfg = s.cfg := by
  cases h : s.cfg.memoryModel <;> cases w <;> simp [State.memWrite, State.poke, h]
@[simp] theorem memWrite_code (w : Width) (a : Word) (v : w.Val) : (s.memWrite w a v).code = s.code := by
  cases h : s.cfg.memoryModel <;> cases w <;> simp [State.memWrite, State.poke, h]
@[simp] theorem memWrite_draws (w : Width) (a : Word) (v : w.Val) : (s.memWrite w a v).draws = s.draws := by
  cases h : s.cfg.memoryModel <;> cases w <;> simp [State.memWrite, State.poke, h]
@[simp] theorem memWrite_trace (w : Width) (a : Word) (v : w.Val) : (s.memWrite w a v).trace = s.trace := by
  cases h : s.cfg.memoryModel <;> cases w <;> simp [State.memWrite, State.poke, h]
@[simp] theorem memWrite_port (w : Width) (a : Word) (v : w.Val) : (s.memWrite w a v).port = s.port ++ [.write a (Value.ofVal w v)] := by
  cases h : s.cfg.memoryModel <;> cases w <;> simp [State.memWrite, State.poke, h]

@[simp] theorem advance_regs (len : Nat) : (s.advance len).regs = s.regs := by
  cases h : s.cfg.fetchMode <;> simp [State.advance, h]
@[simp] theorem advance_flags (len : Nat) : (s.advance len).flags = s.flags := by
  cases h : s.cfg.fetchMode <;> simp [State.advance, h]
@[simp] theorem advance_ip (len : Nat) : (s.advance len).ip = s.nextAddr len := by
  cases h : s.cfg.fetchMode <;> simp [State.advance, h]
@[simp] theorem advance_cursor (len : Nat) : (s.advance len).cursor = if s.cfg.fetchMode = .linear then s.nextAddr len else s.cursor := by
  cases h : s.cfg.fetchMode <;> simp [State.advance, h]
@[simp] theorem advance_status (len : Nat) : (s.advance len).status = s.status := by
  cases h : s.cfg.fetchMode <;> simp [State.advance, h]
@[simp] theorem advance_mem (len : Nat) : (s.advance len).mem = s.mem := by
  cases h : s.cfg.fetchMode <;> simp [State.advance, h]
@[simp] theorem advance_cfg (len : Nat) : (s.advance len).cfg = s.cfg := by
  cases h : s.cfg.fetchMode <;> simp [State.advance, h]
@[simp] theorem advance_code (len : Nat) : (s.advance len).code = s.code := by
  cases h : s.cfg.fetchMode <;> simp [State.advance, h]
@[simp] theorem advance_draws (len : Nat) : (s.advance len).draws = s.draws := by
  cases h : s.cfg.fetchMode <;> simp [State.advance, h]
@[simp] theorem advance_trace (len : Nat) : (s.advance len).trace = s.trace := by
  cases h : s.cfg.fetchMode <;> simp [State.advance, h]
@[simp] theorem advance_port (len : Nat) : (s.advance len).port = s.port := by
  cases h : s.cfg.fetchMode <;> simp [State.advance, h]

@[simp] theorem jumpIfZero_regs (d : Byte) : (s.jumpIfZero d).regs = s.regs := by
  unfold State.jumpIfZero; split <;> rfl
@[simp] theorem jumpIfZero_flags (d : Byte) : (s.jumpIfZero d).flags = s.flags := by
  unfold State.jumpIfZero; split <;> rfl
@[simp] theorem jumpIfZero_ip (d : Byte) : (s.jumpIfZero d).ip = if s.zf then s.ip + sext16 d else s.ip := by
  unfold State.jumpIfZero; split <;> rfl
@[simp] theorem jumpIfZero_cursor (d : Byte) : (s.jumpIfZero d).cursor = s.cursor := by
  unfold State.jumpIfZero; split <;> rfl
@[simp] theorem jumpIfZero_status (d : Byte) : (s.jumpIfZero d).status = s.status := by
  unfold State.jumpIfZero; split <;> rfl
@[simp] theorem jumpIfZero_mem (d : Byte) : (s.jumpIfZero d).mem = s.mem := by
  unfold State.jumpIfZero; split <;> rfl
@[simp] theorem jumpIfZero_cfg (d : Byte) : (s.jumpIfZero d).cfg = s.cfg := by
  unfold State.jumpIfZero; split <;> rfl
@[simp] theorem jumpIfZero_code (d : Byte) : (s.jumpIfZero d).code = s.code := by
  unfold State.jumpIfZero; split <;> rfl
@[simp] theorem jumpIfZero_draws (d : Byte) : (s.jumpIfZero d).draws = s.draws := by
  unfold State.jumpIfZero; split <;> rfl
@[simp] theorem jumpIfZero_trace (d : Byte) : (s.jumpIfZero d).trace = s.trace := by
  unfold State.jumpIfZero; split <;> rfl
@[simp] theorem jumpIfZero_port (d : Byte) : (s.jumpIfZero d).port = s.port := by
  unfold State.jumpIfZero; split <;> rfl

@[simp] theorem readOp_regs {w : Width} (o : Operand w) : (s.readOp o).2.regs = s.regs := by
  cases o <;> simp [State.readOp]
@[simp] theorem readOp_flags {w : Width} (o : Operand w) : (s.readOp o).2.flags = s.flags := by
  cases o <;> simp [State.readOp]
@[simp] theorem readOp_ip {w : Width} (o : Operand w) : (s.readOp o).2.ip = s.ip := by
  cases o <;> simp [State.readOp]
@[simp] theorem readOp_cursor {w : Width} (o : Operand w) : (s.readOp o).2.cursor = s.cursor := by
  cases o <;> simp [State.readOp]
@[simp] theorem readOp_status {w : Width} (o : Operand w) : (s.readOp o).2.status = s.status := by
  cases o <;> simp [State.readOp]
@[simp] theorem readOp_mem {w : Width} (o : Operand w) : (s.readOp o).2.mem = s.mem := by
  cases o <;> simp [State.readOp]
@[simp] theorem readOp_cfg {w : Width} (o : Operand w) : (s.readOp o).2.cfg = s.cfg := by
  cases o <;> simp [State.readOp]
@[simp] theorem readOp_code {w : Width} (o : Operand w) : (s.readOp o).2.code = s.code := by
  cases o <;> simp [State.readOp]
@[simp] theorem readOp_trace {w : Width} (o : Operand w) : (s.readOp o).2.trace = s.trace := by
  cases o <;> simp [State.readOp]

@[simp] theorem observeOp_regs {w : Width} (o : Operand w) : (s.observeOp o).2.regs = s.regs := by
  cases o <;> simp [State.observeOp]
@[simp] theorem observeOp_flags {w : Width} (o : Operand w) : (s.observeOp o).2.flags = s.flags := by
  cases o <;> simp [State.observeOp]
@[simp] theorem observeOp_ip {w : Width} (o : Operand w) : (s.observeOp o).2.ip = s.ip := by
  cases o <;> simp [State.observeOp]
@[simp] theorem observeOp_cursor {w : Width} (o : Operand w) : (s.observeOp o).2.cursor = s.cursor := by
  cases o <;> simp [State.observeOp]
@[simp] theorem observeOp_status {w : Width} (o : Operand w) : (s.observeOp o).2.status = s.status := by
  cases o <;> simp [State.observeOp]
@[simp] theorem observeOp_mem {w : Width} (o : Operand w) : (s.observeOp o).2.mem = s.mem := by
  cases o <;> simp [State.observeOp]
@[simp] theorem observeOp_cfg {w : Width} (o : Operand w) : (s.observeOp o).2.cfg = s.cfg := by
  cases o <;> simp [State.observeOp]
@[simp] theorem observeOp_code {w : Width} (o : Operand w) : (s.observeOp o).2.code = s.code := by
  cases o <;> simp [State.observeOp]
@[simp] theorem observeOp_trace {w : Width} (o : Operand w) : (s.observeOp o).2.trace = s.trace := by
  cases o <;> simp [State.observeOp]
@[simp] theorem observeOp_port {w : Width} (o : Operand w) : (s.observeOp o).2.port = s.port := by
  cases o <;> simp [State.observeOp]

@[simp] theorem writeOp_flags {w : Width} (o : Operand w) (v : w.Val) : (s.writeOp o v).flags = s.flags := by
  cases o <;> simp [State.writeOp]
@[simp] theorem writeOp_ip {w : Width} (o : Operand w) (v : w.Val) : (s.writeOp o v).ip = s.ip := by
  cases o <;> simp [State.writeOp]
@[simp] theorem writeOp_cursor {w : Width} (o : Operand w) (v : w.Val) : (s.writeOp o v).cursor = s.cursor := by
  cases o <;> simp [State.writeOp]
@[simp] theorem writeOp_status {w : Width} (o : Operand w) (v : w.Val) : (s.writeOp o v).status = s.status := by
  cases o <;> simp [State.writeOp]
@[simp] theorem writeOp_cfg {w : Width} (o : Operand w) (v : w.Val) : (s.writeOp o v).cfg = s.cfg := by
  cases o <;> simp [State.writeOp]
@[simp] theorem writeOp_code {w : Width} (o : Operand w) (v : w.Val) : (s.writeOp o v).code = s.code := by
  cases o <;> simp [State.writeOp]
@[simp] theorem writeOp_draws {w : Width} (o : Operand w) (v : w.Val) : (s.writeOp o v).draws = s.draws := by
  cases o <;> simp [State.writeOp]
@[simp] theorem writeOp_trace {w : Width} (o : Operand w) (v : w.Val) : (s.writeOp o v).trace = s.trace := by
  cases o <;> simp [State.writeOp]

end Sys2Proof.Machine
end

