-- ==== Sys2Proof/Laws/Ops.lean ====
section
/-! SUPPORT. One specification lemma for each shared operation on registers, memory, flags and operands. -/

namespace Sys2Proof.Machine

/-! ### Bytes of a word -/

theorem getLsbD_joinBytes (hi lo : Byte) (k : Nat) :
    (joinBytes hi lo).getLsbD k = if k < 8 then lo.getLsbD k else hi.getLsbD (k - 8) :=
  BitVec.getLsbD_append (x := hi) (y := lo)

@[simp] theorem loByte_joinBytes (hi lo : Byte) : loByte (joinBytes hi lo) = lo := by
  apply BitVec.eq_of_getLsbD_eq
  intro k hk
  rw [loByte, BitVec.getLsbD_extractLsb', Nat.zero_add, getLsbD_joinBytes]
  simp [hk]

@[simp] theorem hiByte_joinBytes (hi lo : Byte) : hiByte (joinBytes hi lo) = hi := by
  apply BitVec.eq_of_getLsbD_eq
  intro k hk
  rw [hiByte, BitVec.getLsbD_extractLsb', getLsbD_joinBytes]
  simp [hk]

@[simp] theorem joinBytes_hi_lo (v : Word) : joinBytes (hiByte v) (loByte v) = v := by
  apply BitVec.eq_of_getLsbD_eq
  intro k hk
  rw [getLsbD_joinBytes, hiByte, loByte, BitVec.getLsbD_extractLsb', BitVec.getLsbD_extractLsb']
  by_cases h : k < 8
  · simp [h]
  · simp [h, show k - 8 < 8 by omega, show 8 + (k - 8) = k by omega]

/-! ### Registers -/

@[simp] theorem Regs.get_set_same (r : Regs) (n : RegNum) (v : Word) : (r.set n v).get n = v := by
  cases n <;> rfl

@[simp] theorem Regs.get_set_other (r : Regs) (n m : RegNum) (v : Word) (h : m ≠ n) : (r.set n v).get m = r.get m := by
  cases n <;> cases m <;> first | rfl | exact absurd rfl h

@[simp] theorem Regs.get8_set8_same (r : Regs) (n : RegNum) (v : Byte) : (r.set8 n v).get8 n = v := by
  cases n <;> simp [Regs.get8, Regs.set8, viewHigh]

@[simp] theorem Regs.get8_set8_other (r : Regs) (n m : RegNum) (v : Byte) (h : m ≠ n) :
    (r.set8 n v).get8 m = r.get8 m := by
  cases n <;> cases m <;> first
    | exact absurd rfl h
    | simp [Regs.get8, Regs.set8, viewHigh, viewCell, Regs.get, Regs.set]

/-- The write of `Reg(w, n)` writes it and no other register. -/
theorem regWritten_writeReg (s : State) (w : Width) (n : RegNum) (v : w.Val) :
    RegWritten s (s.writeReg w n v) w n v := by
  cases w with
  | word => exact ⟨Regs.get_set_same _ _ _, fun m h => Regs.get_set_other _ _ _ _ h⟩
  | byte =>
    refine ⟨Regs.get8_set8_same _ _ _, fun m h => Regs.get8_set8_other _ _ _ _ h, ?_⟩
    cases n <;> exact ⟨rfl, rfl, rfl, rfl⟩

/-! ### Data memory -/

theorem byteAt_setByte (s : State) (a b : Word) (v : Byte) (h : Memory.wf s.mem = true) :
    (s.setByte a v).byteAt b = if b = a then v else s.byteAt b := by
  simp only [State.byteAt, setByte_mem]
  rw [Memory.get_set s.mem 0 a.toNat b.toNat v h]
  simp [BitVec.toNat_inj]

theorem wf_setByte (s : State) (a : Word) (v : Byte) (h : Memory.wf s.mem = true) :
    Memory.wf (s.setByte a v).mem = true := Memory.wf_set s.mem a v h

/-- A write of 1 or 2 bytes keeps the canonical form. -/
theorem wf_poke (s : State) (w : Width) (a : Word) (v : w.Val) (h : Memory.wf s.mem = true) :
    Memory.wf (s.poke w a v).mem = true := by
  cases w with
  | byte => exact wf_setByte s a v h
  | word => exact wf_setByte _ _ _ (wf_setByte s a _ h)

theorem ne_add_one (a : Word) : a + 1#16 ≠ a := by
  intro h
  have := congrArg BitVec.toNat h
  simp [BitVec.toNat_add] at this
  omega

theorem byteAt_poke_byte (s : State) (a b : Word) (v : Byte) (h : Memory.wf s.mem = true) :
    (s.poke .byte a v).byteAt b = if b = a then v else s.byteAt b := byteAt_setByte s a b v h

theorem byteAt_poke_word (s : State) (a b : Word) (v : Word) (h : Memory.wf s.mem = true) :
    (s.poke .word a v).byteAt b = if b = a + 1#16 then hiByte v else if b = a then loByte v else s.byteAt b := by
  show ((s.setByte a (loByte v)).setByte (a + 1#16) (hiByte v)).byteAt b = _
  rw [byteAt_setByte _ _ _ _ (wf_setByte s a _ h), byteAt_setByte _ _ _ _ h]

/-- The bytes of a state depend on its memory alone. -/
theorem byteAt_congr (s t : State) (h : t.mem = s.mem) (b : Word) : t.byteAt b = s.byteAt b := by
  simp [State.byteAt, h]

theorem memSame_of_mem (s t : State) (h : t.mem = s.mem) : MemSame s t := byteAt_congr s t h

/-- `MemWrite` writes the bytes of its address and width, or nothing under INERT. -/
theorem memWritten_memWrite (s : State) (w : Width) (a : Word) (v : w.Val) (h : Memory.wf s.mem = true) :
    MemWritten s (s.memWrite w a v) w a v := by
  unfold MemWritten
  cases hm : s.cfg.memoryModel with
  | inert => exact memSame_of_mem _ _ (by simp [hm])
  | backed =>
    have hmem : (s.memWrite w a v).mem = (s.poke w a v).mem := by simp [hm]
    cases w with
    | byte =>
      refine ⟨?_, fun b hb => ?_⟩
      · rw [byteAt_congr _ _ hmem, byteAt_poke_byte _ _ _ _ h, if_pos rfl]
      · rw [byteAt_congr _ _ hmem, byteAt_poke_byte _ _ _ _ h, if_neg hb]
    | word =>
      refine ⟨?_, ?_, fun b hb hb' => ?_⟩
      · rw [byteAt_congr _ _ hmem, byteAt_poke_word _ _ _ _ h, if_neg (ne_add_one a).symm, if_pos rfl]
      · rw [byteAt_congr _ _ hmem, byteAt_poke_word _ _ _ _ h, if_pos rfl]
      · rw [byteAt_congr _ _ hmem, byteAt_poke_word _ _ _ _ h, if_neg hb', if_neg hb]

/-- `MemWrite` keeps the canonical form. -/
theorem wf_memWrite (s : State) (w : Width) (a : Word) (v : w.Val) (h : Memory.wf s.mem = true) :
    Memory.wf (s.memWrite w a v).mem = true := by
  simp only [memWrite_mem]
  split
  · exact h
  · exact wf_poke s w a v h

/-! ### Flags -/

theorem getLsbD_putBit (f : Word) (k : Nat) (b : Bool) (j : Nat) (hk : k < 16) :
    (putBit f k b).getLsbD j = if j = k then b else f.getLsbD j := by
  have hbit : (1#16 <<< k).getLsbD j = decide (j = k) := by
    rw [BitVec.getLsbD_shiftLeft, BitVec.getLsbD_one]
    by_cases e : j = k
    · simp [e, hk]
    · simp only [e, decide_false]
      rcases Nat.lt_or_ge j k with h | h
      · simp [h]
      · simp [show j - k ≠ 0 by omega]
  unfold putBit
  cases b
  · simp only [Bool.false_eq_true, if_false, BitVec.getLsbD_and, BitVec.getLsbD_not, hbit]
    by_cases e : j = k
    · simp [e]
    · rcases Nat.lt_or_ge j 16 with hj | hj
      · simp [e, hj]
      · simp [e, BitVec.getLsbD_of_ge f j hj]
  · simp only [if_true, BitVec.getLsbD_or, hbit]
    by_cases e : j = k <;> simp [e]

theorem flag_setFlag (s : State) (k : Nat) (b : Bool) (j : Nat) (hk : k < 16) :
    (s.setFlag k b).flag j = if j = k then b else s.flag j := getLsbD_putBit s.flags k b j hk

/-- The flags updater sets ZF and SF from its argument and no other bit. -/
theorem flagsOf_setFlags (s : State) (w : Width) (r : w.Val) : FlagsOf s (s.setFlags w r) w r := by
  refine ⟨?_, ?_, fun k h6 h7 => ?_⟩
  · show ((s.setFlag zfBit (r == 0)).setFlag sfBit r.msb).flag zfBit = _
    rw [flag_setFlag _ _ _ _ (by decide), flag_setFlag _ _ _ _ (by decide)]
    simp [zfBit, sfBit, beq_eq_decide]
  · show ((s.setFlag zfBit (r == 0)).setFlag sfBit r.msb).flag sfBit = _
    rw [flag_setFlag _ _ _ _ (by decide), if_pos rfl, BitVec.msb_eq_getLsbD_last]
  · show ((s.setFlag zfBit (r == 0)).setFlag sfBit r.msb).flag k = _
    rw [flag_setFlag _ _ _ _ (by decide), flag_setFlag _ _ _ _ (by decide)]
    simp [sfBit, zfBit, h6, h7]

/-! ### Operand access -/

/-- What `ReadOp` gives is the operand's value. -/
theorem readOp_value (s : State) {w : Width} (o : Operand w) : (s.readOp o).1 = s.operandValue o := by
  cases o with
  | reg n => rfl
  | mem a => cases h : s.cfg.memoryModel <;> simp [State.readOp, State.memRead, State.operandValue, h]
  | imm v => rfl

/-- What the trace observes is the operand's value. -/
theorem observeOp_value (s : State) {w : Width} (o : Operand w) : (s.observeOp o).1 = s.operandValue o := by
  cases o with
  | reg n => rfl
  | mem a => cases h : s.cfg.memoryModel <;> simp [State.observeOp, State.memObserve, State.operandValue, h]
  | imm v => rfl

/-- A read issues the operand's request. -/
@[simp] theorem readOp_port (s : State) {w : Width} (o : Operand w) :
    (s.readOp o).2.port = s.port ++ readRequests o := by
  cases o <;> simp [State.readOp, readRequests]

/-- A write issues the destination's request. -/
@[simp] theorem writeOp_port (s : State) {w : Width} (o : Operand w) (v : w.Val) :
    (s.writeOp o v).port = s.port ++ writeRequests v o := by
  cases o <;> simp [State.writeOp, writeRequests]

/-- Under BACKED no free value is drawn. -/
@[simp] theorem readOp_draws_backed (s : State) {w : Width} (o : Operand w) (h : s.cfg.memoryModel = .backed) :
    (s.readOp o).2.draws = s.draws := by
  cases o <;> simp [State.readOp, h]

@[simp] theorem observeOp_draws_backed (s : State) {w : Width} (o : Operand w) (h : s.cfg.memoryModel = .backed) :
    (s.observeOp o).2.draws = s.draws := by
  cases o <;> simp [State.observeOp, h]

/-- The value of a register or an immediate, and of any operand under BACKED, depends on registers and memory alone. -/
theorem operandValue_congr (s t : State) {w : Width} (o : Operand w) (hr : t.regs = s.regs) (hm : t.mem = s.mem)
    (hc : t.cfg = s.cfg) (hd : t.draws = s.draws) : t.operandValue o = s.operandValue o := by
  cases o with
  | reg n => cases w <;> simp [State.operandValue, State.readReg, hr]
  | mem a => cases w <;> simp [State.operandValue, State.peek, State.byteAt, State.drawn, hc, hm, hd]
  | imm v => rfl

end Sys2Proof.Machine
end

