-- ==== Sys2Proof/Laws/Meanings.lean ====
section
/-! SUPPORT. One specification lemma for each shared rule of the instruction meanings, in the terms of Safety.lean. -/

namespace Sys2Proof.Machine

/-- The fetch address depends on the parameters, ip and cursor alone. -/
theorem fetchAddr_congr (s t : State) (hc : t.cfg = s.cfg) (hi : t.ip = s.ip) (hk : t.cursor = s.cursor) :
    t.fetchAddr = s.fetchAddr := by
  cases h : s.cfg.fetchMode <;> simp [State.fetchAddr, hc, hi, hk, h]

/-- The advanced state gives every operand the value it had before the step (R127). -/
theorem operandValue_advance (s : State) (len : Nat) {w : Width} (o : Operand w) :
    (s.advance len).operandValue o = s.operandValue o :=
  operandValue_congr _ _ o (by simp) (by simp) (by simp) (by simp)

/-- An operand's read does not change another operand's value, if the two are not both in INERT memory. -/
theorem operandValue_readOp (s : State) {w : Width} (o p : Operand w) (h : ∀ a b, o = .mem a → p ≠ .mem b) :
    (s.readOp o).2.operandValue p = s.operandValue p := by
  cases o with
  | reg n => rfl
  | imm v => rfl
  | mem a =>
    cases p with
    | reg n => cases w <;> simp [State.operandValue, State.readReg]
    | imm v => rfl
    | mem b => exact absurd rfl (h a b rfl)

/-- The same for the trace's observation. -/
theorem operandValue_observeOp (s : State) {w : Width} (o p : Operand w) (h : ∀ a b, o = .mem a → p ≠ .mem b) :
    (s.observeOp o).2.operandValue p = s.operandValue p := by
  cases o with
  | reg n => rfl
  | imm v => rfl
  | mem a =>
    cases p with
    | reg n => cases w <;> simp [State.operandValue, State.readReg]
    | imm v => rfl
    | mem b => exact absurd rfl (h a b rfl)

/-- `WriteOp` writes its destination and nothing else, seen from a state with the same registers, memory and parameters. -/
theorem dstWritten_writeOp (s u t : State) {w : Width} (dst : Operand w) (v : w.Val) (hd : ∀ x, dst ≠ .imm x)
    (hwf : Memory.wf s.mem = true) (hur : u.regs = s.regs) (hum : u.mem = s.mem) (huc : u.cfg = s.cfg)
    (htr : t.regs = (u.writeOp dst v).regs) (htm : t.mem = (u.writeOp dst v).mem) : DstWritten s t dst v := by
  cases dst with
  | imm x => exact absurd rfl (hd x)
  | reg n =>
    refine ⟨?_, memSame_of_mem _ _ (by simpa [State.writeOp, hum] using htm)⟩
    have h := regWritten_writeReg u w n v
    cases w <;> simpa [RegWritten, htr, State.writeOp, hur] using h
  | mem a =>
    refine ⟨by simpa [State.writeOp, hur] using htr, ?_⟩
    have h := memWritten_memWrite u w a v (hum ▸ hwf)
    have ht : ∀ b, t.byteAt b = (u.memWrite w a v).byteAt b := byteAt_congr _ _ htm
    have hu : ∀ b, u.byteAt b = s.byteAt b := byteAt_congr _ _ hum
    cases hm : s.cfg.memoryModel <;> cases w <;>
      simpa [MemWritten, MemSame, huc, hm, ht, hu] using h

theorem flagsOf_congr (s u t : State) (w : Width) (r : w.Val) (hu : u.flags = s.flags)
    (ht : t.flags = (u.setFlags w r).flags) : FlagsOf s t w r := by
  have h := flagsOf_setFlags u w r
  simpa [FlagsOf, State.zf, State.sf, State.flag, hu, ht] using h

/-- What the shared rule of ADD and SUB leaves. -/
theorem runArith_done (s : State) (i : Instr) {w : Width} (f : w.Val → w.Val → w.Val) (dst src : Operand w)
    (hd : ∀ x, dst ≠ .imm x) (h : ∀ a b, dst = .mem a → src ≠ .mem b) (hwf : Memory.wf s.mem = true) :
    ArithDone i s (s.runArith i f dst src) dst src (f (s.operandValue dst) (s.operandValue src)) := by
  have ha : ((s.advance i.length).readOp dst).1 = s.operandValue dst := by
    rw [readOp_value, operandValue_advance]
  have hb : (((s.advance i.length).readOp dst).2.readOp src).1 = s.operandValue src := by
    rw [readOp_value, operandValue_readOp _ _ _ h, operandValue_advance]
  refine ⟨?_, ?_, ?_, ⟨?_, ?_, ?_, ?_, ?_⟩, ?_, ?_⟩
  · exact dstWritten_writeOp s (((s.advance i.length).readOp dst).2.readOp src).2 _ dst _ hd hwf (by simp) (by simp)
      (by simp) (by simp [State.runArith, ha, hb]) (by simp [State.runArith, ha, hb])
  · exact flagsOf_congr s s _ w _ rfl (by simp [State.runArith, ha, hb])
  case refine_8 => intro hm; simp [State.runArith, hm]
  all_goals simp [State.runArith, ha, hb, State.nextAddr]

/-- What the shared rule of CMP leaves. -/
theorem runCmp_done (s : State) (i : Instr) {w : Width} (dst src : Operand w)
    (h : ∀ a b, dst = .mem a → src ≠ .mem b) :
    CmpDone i s (s.runCmp i dst src) dst src (subN (s.operandValue dst) (s.operandValue src)) := by
  have ha : ((s.advance i.length).readOp dst).1 = s.operandValue dst := by
    rw [readOp_value, operandValue_advance]
  have hb : (((s.advance i.length).readOp dst).2.readOp src).1 = s.operandValue src := by
    rw [readOp_value, operandValue_readOp _ _ _ h, operandValue_advance]
  refine ⟨?_, memSame_of_mem _ _ ?_, ?_, ?_, ⟨?_, ?_, ?_, ?_, ?_⟩, ?_, ?_⟩
  case refine_3 => exact flagsOf_congr s s _ w _ rfl (by simp [State.runCmp, ha, hb])
  case refine_9 => intro hm; simp [State.runCmp, hm]
  all_goals simp [State.runCmp, ha, hb, State.nextAddr]

/-- What the shared rule of MOV leaves. -/
theorem runMov_done (s : State) (i : Instr) {w : Width} (dst src : Operand w)
    (hd : ∀ x, dst ≠ .imm x) (h : ∀ a b, dst = .mem a → src ≠ .mem b) (hwf : Memory.wf s.mem = true) :
    MovDone i s (s.runMov i dst src) dst src (s.operandValue src) := by
  have ha : ((s.advance i.length).observeOp dst).1 = s.operandValue dst := by
    rw [observeOp_value, operandValue_advance]
  have hb : (((s.advance i.length).observeOp dst).2.readOp src).1 = s.operandValue src := by
    rw [readOp_value, operandValue_observeOp _ _ _ h, operandValue_advance]
  refine ⟨?_, ?_, ?_, ⟨?_, ?_, ?_, ?_, ?_⟩, ?_, ?_⟩
  · exact dstWritten_writeOp s (((s.advance i.length).observeOp dst).2.readOp src).2 _ dst _ hd hwf (by simp) (by simp)
      (by simp) (by simp [State.runMov, hb]) (by simp [State.runMov, hb])
  · split
    · next hw => exact flagsOf_congr s s _ w _ rfl (by simp [State.runMov, hb, hw])
    · next hw => simp [State.runMov, hw]
  case refine_8 => intro hm; simp [State.runMov, hm]
  all_goals simp [State.runMov, ha, hb, State.nextAddr]

/-- The instructions that write no flags (R28). -/
theorem writesFlags_eq_false (cfg : LaunchConfig) (i : Instr) (h : writesFlags cfg i = false) :
    mnemonicOf i = .jz ∨ mnemonicOf i = .mov ∧ cfg.movWritesFlags = false := by
  unfold writesFlags at h
  split at h <;> simp_all

/-- Flags set from one result are the same, whatever word they were set in. -/
theorem sameZfSf_of_flagsOf (s t t' : State) (f : Word) (w : Width) (r : w.Val) (h : FlagsOf s t w r)
    (h' : FlagsOf { s with flags := f } t' w r) : SameZfSf t t' f :=
  ⟨h'.1.trans h.1.symm, h'.2.1.trans h.2.1.symm, h'.2.2⟩

/-- A run whose first step goes on is that step and then the rest of the run. -/
theorem Core_run_succ (M : Host.Core) (s t : M.State) (k : Nat) (h : M.step s = .next t) :
    M.run (k + 1) s = M.run k t := by
  simp [Host.Core.run, h]

end Sys2Proof.Machine
end

