-- ==== Sys2Proof/Laws/PerInstr.lean ====
section
/-! SUPPORT. Facts about every instruction as syntax, one lemma for each constructor. -/

namespace Sys2Proof.Laws.EncodedLength

/-- The encoder writes as many bytes as the instruction's length (R100). -/
def Statement (i : Instr) : Prop := ∀ jz, i.wf = true → (encode jz i).length = i.length

theorem immBytes_hasWidth (imm : Imm) (w : Width) (h : imm.hasWidth w = true) : imm.encBytes.length = w.bytes := by
  cases imm <;> cases w <;> simp_all [Imm.hasWidth, Imm.encBytes, Width.bytes, wordBytes]

theorem immBytes_fitsRm (imm : Imm) (s : Bool) (w : Width) (h : imm.fitsRm s w = true) :
    imm.encBytes.length = rmImmLen s w := by
  cases imm <;> cases s <;> cases w <;> simp_all [Imm.fitsRm, Imm.encBytes, rmImmLen, wordBytes]

theorem rmReg_length (op6 : BitVec 6) (d : Direction) (w : Width) (rm : RmOperand) (reg : RegNum) :
    (encRmReg op6 d w rm reg).length = 2 + rm.dispLen := by
  simp [encRmReg]; omega

theorem rmImm_length (op3 : BitVec 3) (s : Bool) (w : Width) (rm : RmOperand) (imm : Imm)
    (h : (rm.wf && imm.fitsRm s w) = true) : (encRmImm op3 s w rm imm).length = 2 + rm.dispLen + rmImmLen s w := by
  simp [encRmImm, immBytes_fitsRm imm s w (by simp_all)]; omega

theorem accImm_length (op6 : BitVec 6) (x : Bool) (w : Width) (imm : Imm) (h : imm.hasWidth w = true) :
    (encAccImm op6 x w imm).length = 1 + w.bytes := by
  simp [encAccImm, immBytes_hasWidth imm w h]; omega

theorem movRmReg (d : Direction) (w : Width) (rm : RmOperand) (reg : RegNum) : Statement (.movRmReg d w rm reg) :=
  fun _ _ => rmReg_length _ d w rm reg

theorem movRegImm (w : Width) (reg : RegNum) (imm : Imm) : Statement (.movRegImm w reg imm) := fun jz h => by
  simp [encode, Instr.length, immBytes_hasWidth imm w h]; omega

theorem addRmReg (d : Direction) (w : Width) (rm : RmOperand) (reg : RegNum) : Statement (.addRmReg d w rm reg) :=
  fun _ _ => rmReg_length _ d w rm reg

theorem subRmReg (d : Direction) (w : Width) (rm : RmOperand) (reg : RegNum) : Statement (.subRmReg d w rm reg) :=
  fun _ _ => rmReg_length _ d w rm reg

theorem cmpRmReg (d : Direction) (w : Width) (rm : RmOperand) (reg : RegNum) : Statement (.cmpRmReg d w rm reg) :=
  fun _ _ => rmReg_length _ d w rm reg

theorem addRmImm (s : Bool) (w : Width) (rm : RmOperand) (imm : Imm) : Statement (.addRmImm s w rm imm) :=
  fun _ h => rmImm_length _ s w rm imm h

theorem subRmImm (s : Bool) (w : Width) (rm : RmOperand) (imm : Imm) : Statement (.subRmImm s w rm imm) :=
  fun _ h => rmImm_length _ s w rm imm h

theorem cmpRmImm (s : Bool) (w : Width) (rm : RmOperand) (imm : Imm) : Statement (.cmpRmImm s w rm imm) :=
  fun _ h => rmImm_length _ s w rm imm h

theorem addAccImm (x : Bool) (w : Width) (imm : Imm) : Statement (.addAccImm x w imm) :=
  fun _ h => accImm_length _ x w imm h

theorem subAccImm (x : Bool) (w : Width) (imm : Imm) : Statement (.subAccImm x w imm) :=
  fun _ h => accImm_length _ x w imm h

theorem cmpAccImm (x : Bool) (w : Width) (imm : Imm) : Statement (.cmpAccImm x w imm) :=
  fun _ h => accImm_length _ x w imm h

theorem jzRel8 (disp : Byte) : Statement (.jzRel8 disp) := fun _ _ => rfl

end Sys2Proof.Laws.EncodedLength
end

