-- ==== Sys2Proof/Tests/Slice0.lean ====
section
/-! SUPPORT. Tests. Expected results are those of spec/95_test_vectors.md, named in each comment, or hand readings of the
rule cited. -/

namespace Sys2Proof.Tests

open Sys2Proof.Machine

/-! ### Well-formedness: each check refuses an ill-formed term -/

theorem test_wf_bp_needs_displacement : (Instr.movRmReg .toReg .word (.based .bp .none) .r0).wf = false := by decide

theorem test_wf_short_move_width : (Instr.movRegImm .word .r0 (.imm8 5)).wf = false := by decide

theorem test_wf_acc_width : (Instr.addAccImm false .byte (.imm16 5)).wf = false := by decide

theorem test_wf_rm_imm_sign_extended : (Instr.addRmImm true .word (.reg .r0) (.imm16 5)).wf = false := by decide

theorem test_wf_rm_imm_word : (Instr.cmpRmImm false .word (.reg .r0) (.imm8 5)).wf = false := by decide

theorem test_wf_rm_imm_operand : (Instr.subRmImm true .byte (.based .bp .none) (.imm8 5)).wf = false := by decide

/-! ### Decoding: words written out from the encodings of R80 -/

/-- The decoder on a stream, with the default `JZ_OPCODE`. -/
def dec (bs : List Byte) : Except DecodeError (Instr × List Byte) := decode 0x74 bs

/-- D-1: 89 D9 is `mov cx, bx`. -/
theorem test_decode_movRmReg :
    dec [0b10001001, 0b11011001] = .ok (.movRmReg .toRm .word (.reg .r1) .r3, []) := by decide

/-- V-SRC-8: B8 05 00 is `mov ax, 5`. -/
theorem test_decode_movRegImm : dec [0b10111000, 0x05, 0x00] = .ok (.movRegImm .word .r0 (.imm16 5), []) := by decide

/-- D-16: 01 00 is `add [bx + si], ax`. -/
theorem test_decode_addRmReg :
    dec [0b00000001, 0b00000000] = .ok (.addRmReg .toRm .word (.based .bxSi .none) .r0, []) := by decide

/-- D-15: 2A 21 is `sub ah, [bx + di]`. -/
theorem test_decode_subRmReg :
    dec [0b00101010, 0b00100001] = .ok (.subRmReg .toReg .byte (.based .bxDi .none) .r4, []) := by decide

/-- D-14: 3B 4E FE is `cmp cx, [bp - 2]`. -/
theorem test_decode_cmpRmReg :
    dec [0b00111011, 0b01001110, 0xFE] = .ok (.cmpRmReg .toReg .word (.based .bp (.d8 0xFE)) .r1, []) := by decide

/-- D-8: 81 87 34 12 78 56 is `add word [bx + 4660], 22136`. -/
theorem test_decode_addRmImm : dec [0b10000001, 0b10000111, 0x34, 0x12, 0x78, 0x56] =
    .ok (.addRmImm false .word (.based .bx (.d16 0x1234)) (.imm16 0x5678), []) := by decide

/-- A-13: 83 6E FE 01 is `sub word [bp - 2], 1`. -/
theorem test_decode_subRmImm : dec [0b10000011, 0b01101110, 0xFE, 0x01] =
    .ok (.subRmImm true .word (.based .bp (.d8 0xFE)) (.imm8 1), []) := by decide

/-- D-9: 80 3E 00 02 05 is `cmp byte [512], 5`. -/
theorem test_decode_cmpRmImm : dec [0b10000000, 0b00111110, 0x00, 0x02, 0x05] =
    .ok (.cmpRmImm false .byte (.direct 0x0200) (.imm8 5), []) := by decide

/-- D-12: 06 05 is `add al, 5`, bit 1 of byte 0 ignored. -/
theorem test_decode_addAccImm : dec [0b00000110, 0x05, 0xFF] = .ok (.addAccImm true .byte (.imm8 5), [0xFF]) := by decide

/-- D-11: 2C 09 is `sub al, 9`. -/
theorem test_decode_subAccImm : dec [0b00101100, 0x09] = .ok (.subAccImm false .byte (.imm8 9), []) := by decide

/-- A-20: 3D 00 FE is `cmp ax, 0xFE00`. -/
theorem test_decode_cmpAccImm : dec [0b00111101, 0x00, 0xFE] = .ok (.cmpAccImm false .word (.imm16 0xFE00), []) := by decide

/-- D-13: 74 FB is `jz` with displacement -5. -/
theorem test_decode_jzRel8 : dec [0b01110100, 0xFB] = .ok (.jzRel8 0xFB, []) := by decide

/-- D-2 and D-3: mod 00 with rm 110 is a direct address, mod 01 with rm 110 is [BP + disp]. -/
theorem test_decode_direct : dec [0x8B, 0x06, 0x02, 0x01] = .ok (.movRmReg .toReg .word (.direct 0x0102) .r0, []) ∧
    dec [0x8B, 0x46, 0x00] = .ok (.movRmReg .toReg .word (.based .bp (.d8 0)) .r0, []) := by decide

/-- D-18: 82 C1 80 keeps its one byte unextended. -/
theorem test_decode_sign_bit_of_byte_form :
    dec [0x82, 0xC1, 0x80] = .ok (.addRmImm true .byte (.reg .r1) (.imm8 0x80), []) := by decide

/-- F-1 and F-5: an operation missing from DEFAULT's table, one byte examined. -/
theorem test_decode_unknown_default :
    dec [0x75, 0x00] = .error ⟨.unknownOperation, 1⟩ ∧ dec [0x0F] = .error ⟨.unknownOperation, 1⟩ := by decide

/-- F-2 and F-7: op3 001 comes before the missing immediate, two bytes examined. -/
theorem test_decode_unknown_op3 :
    dec [0x80, 0x0F, 0x01] = .error ⟨.unknownOperation, 2⟩ ∧ dec [0x80, 0x08] = .error ⟨.unknownOperation, 2⟩ := by decide

/-- F-3, F-4 and F-8: the bytes run out. -/
theorem test_decode_exhausted : dec [0x83, 0xE8] = .error ⟨.streamExhaustion, 2⟩ ∧
    dec [0x03] = .error ⟨.streamExhaustion, 1⟩ ∧ dec [0x8B, 0x06, 0x02] = .error ⟨.streamExhaustion, 3⟩ := by decide

/-- R80 and R81: IMM_TO_ACC's record holds op6 and w alone, so 0x04 and 0x06 have the same record. -/
theorem test_acc_fields : fieldsOf .immToAcc 0x06 0 = .immToAcc 0b000001 0 ∧
    fieldsOf .immToAcc 0x04 0 = fieldsOf .immToAcc 0x06 0 := by decide

/-- A header number of spec/opcode_table.json has byte 0 on top (30_encoding.md, preamble). -/
theorem test_decodeTableWord : decodeTableWord 16 0x8028 = some (.subRmImm false .byte (.based .bxSi .none) (.imm8 0)) ∧
    decodeTableWord 8 0xB8 = some (.movRegImm .word .r0 (.imm16 0)) ∧ decodeTableWord 8 0x0F = none := by decide

/-! ### Meanings, one step each -/

/-- A state at the start of a stream (95_test_vectors.md's defaults, less what a test sets). -/
def start (bs : List Byte) : State := { State.reset with code := bs }

/-- One field or fields of the state after one step; the value given if the step does not go on. -/
def after {α : Type} (s : State) (f : State → α) (no : α) : α :=
  match step s with
  | .next t => f t
  | .fault _ => no
  | .refused _ => no

/-- The state with a word in a register cell. -/
def put (n : RegNum) (v : Word) (s : State) : State := { s with regs := s.regs.set n v }

/-- The state with a data memory. -/
def putMem (m : Memory) (s : State) : State := { s with mem := m }

/-- M-1 and M-2: `mov cx, bx`; `mov ah, al` changes the destination byte alone. -/
theorem test_mov_registers :
    after (put .r3 0x0102 (start [0x89, 0xD9])) (fun t => t.regs.cx) 0 = 0x0102 ∧
      after (put .r0 0x1234 (start [0x88, 0xC4])) (fun t => t.regs.ax) 0 = 0x3434 := by decide

/-- M-7: `mov [bx + 2], cx` stores the low byte at the lower address. -/
theorem test_mov_store_is_little_endian :
    after (put .r3 0x0100 (put .r1 0xBEEF (start [0x89, 0x4F, 0x02]))) (fun t => t.mem) [] =
      [(0x0102, 0xEF), (0x0103, 0xBE)] := by decide

/-- M-8: a word read at 0xFFFF wraps to address 0. -/
theorem test_mov_load_wraps :
    after (putMem [(0x0000, 0x12), (0xFFFF, 0x34)] (start [0x8B, 0x06, 0xFF, 0xFF])) (fun t => t.regs.ax) 0 = 0x1234 := by
  decide

/-- M-5: `mov al, 0x80` sets SF when MOV_WRITES_FLAGS is true, and no flag when it is false. -/
theorem test_mov_imm_flags : after (start [0xB0, 0x80]) (fun t => (t.regs.ax, t.flags)) (0, 0) = (0x0080, 0x0080) ∧
    after { start [0xB0, 0x80] with cfg := { Config.default with movWritesFlags := false } } (fun t => t.flags) 1 = 0 := by
  decide

/-- A-5: `add ah, al`; V-SRC-1: `add bx, cx` wraps. -/
theorem test_add_reg : after (put .r0 0x0180 (start [0x00, 0xC4])) (fun t => (t.regs.ax, t.flags)) (0, 0) = (0x8180, 0x0080) ∧
    after (put .r3 0xFFFF (put .r1 2 (start [0x01, 0xCB]))) (fun t => (t.regs.bx, t.flags)) (0, 1) = (1, 0) := by decide

/-- A-12: `sub cx, [bx]` with the register as the minuend. -/
theorem test_sub_from_register :
    after (putMem [(0x0200, 3)] (put .r3 0x0200 (put .r1 10 (start [0x2B, 0x0F])))) (fun t => (t.regs.cx, t.port)) (0, []) =
      (7, [.read 0x0200 .word]) := by decide

/-- A-15: `cmp ax, bx` leaves AX and sets SF of the difference. -/
theorem test_cmp_reg :
    after (put .r0 3 (put .r3 5 (start [0x39, 0xD8]))) (fun t => (t.regs.ax, t.flags)) (0, 0) = (3, 0x0080) := by decide

/-- A-7: `add byte [bx], 32` wraps in one byte, a read and then a write. -/
theorem test_add_mem_imm :
    after (putMem [(0x0100, 0xF0)] (put .r3 0x0100 (start [0x80, 0x07, 0x20]))) (fun t => (t.mem, t.port)) ([], []) =
      ([(0x0100, 0x10)], [.read 0x0100 .byte, .write 0x0100 (.byte 0x10)]) := by decide

/-- A-6: `add si, 2` gives zero and sets ZF. -/
theorem test_add_reg_imm :
    after (put .r6 0xFFFE (start [0x83, 0xC6, 0x02])) (fun t => (t.regs.si, t.flags)) (1, 0) = (0, 0x0040) := by decide

/-- A-13: `sub word [bp - 2], 1` leaves no listed byte; A-11: `sub ax, -128` sign-extends. -/
theorem test_sub_imm :
    after (putMem [(0x0100, 1)] (put .r5 0x0102 (start [0x83, 0x6E, 0xFE, 0x01]))) (fun t => (t.mem, t.flags)) ([], 0) =
      ([], 0x0040) ∧
    after (put .r0 5 (start [0x83, 0xE8, 0x80])) (fun t => t.regs.ax) 0 = 0x0085 := by decide

/-- A-18: `cmp byte [bx], 1` reads and never writes. -/
theorem test_cmp_mem_imm :
    after (putMem [(0x0300, 0x80)] (put .r3 0x0300 (start [0x80, 0x3F, 0x01]))) (fun t => (t.mem, t.flags, t.port))
      ([], 1, []) = ([(0x0300, 0x80)], 0, [.read 0x0300 .byte]) := by decide

/-- A-3: `add al, 0x80` does not carry into AH. -/
theorem test_add_acc : after (put .r0 0x0080 (start [0x04, 0x80])) (fun t => (t.regs.ax, t.flags)) (1, 0) = (0, 0x0040) := by
  decide

/-- A-8: `sub ax, 1` from 0. -/
theorem test_sub_acc : after (start [0x2D, 0x01, 0x00]) (fun t => (t.regs.ax, t.flags)) (0, 0) = (0xFFFF, 0x0080) := by
  decide

/-- A-17: `cmp al, 0x10`. -/
theorem test_cmp_acc : after (put .r0 0x10 (start [0x3C, 0x10])) (fun t => (t.regs.ax, t.flags)) (0, 0) = (0x10, 0x0040) := by
  decide

/-- A stream with an instruction at offset 0x0010, and ZF as given. -/
def jumpAt16 (zf : Bool) (b0 b1 : Byte) : State :=
  (start (List.replicate 0x10 0x90 ++ [b0, b1] ++ List.replicate 4 0x90)).setFlag zfBit zf

/-- J-1 and J-2: JZ -5 at 0x0010, taken and not taken. -/
theorem test_jz : after { jumpAt16 true 0x74 0xFB with ip := 0x10 } (fun t => (t.ip, t.flags)) (0, 0) = (0x000D, 0x0040) ∧
    after { jumpAt16 false 0x74 0xFB with ip := 0x10 } (fun t => t.ip) 0 = 0x0012 := by decide

/-- J-9: in LINEAR a taken jump moves ip, and the next fetch is at the cursor. -/
theorem test_jz_linear :
    after ({ start [0x74, 0x04] with cfg := { Config.default with fetchMode := .linear } }.setFlag zfBit true)
      (fun t => (t.ip, t.cursor, t.fetchAddr)) (0, 0, 0) = (0x0006, 0x0002, 0x0002) := by decide

/-- M-10: a MOV to INERT memory changes no byte. -/
theorem test_inert_write :
    after (put .r1 7 { start [0x89, 0x0F] with cfg := { Config.default with memoryModel := .inert } })
      (fun t => (t.mem, t.ip, t.port)) ([(0, 0)], 0, []) = ([], 2, [.write 0 (.word 7)]) := by decide

/-! ### The run's ends -/

/-- R233: an empty stream halts at the first step, and the dump shows eight zero registers. -/
theorem test_empty_stream_halts :
    after State.reset (fun t => (t.status, t.dump)) (.running, none) = (.halted, some [0, 0, 0, 0, 0, 0, 0, 0]) := by decide

/-- P4's last step: StreamExhaustion at 10, seen 83 E8, and nothing else changes. -/
theorem test_fault_record :
    after { start [0xB8, 0x02, 0x00, 0x2D, 0x02, 0x00, 0x74, 0x02, 0xF4, 0x90, 0x83, 0xE8] with ip := 10 }
      (fun t => (t.status, t.ip, t.trace)) (.running, 0, []) =
      (.faulted ⟨.streamExhaustion, 10, [0x83, 0xE8]⟩, 10, []) := by decide

/-- R200's table: the code of a fault's kind, at the fault of F-1 and of F-4. -/
theorem test_fault_code : (match dec [0x75, 0x00] with | .error e => FaultKind.code e.kind | .ok _ => 0) = 3 ∧
    (match dec [0x03] with | .error e => FaultKind.code e.kind | .ok _ => 0) = 4 := by decide

/-- J-6: a fetch beyond the stream, nothing seen. -/
theorem test_fetch_beyond_stream :
    after { start [0x74, 0x80] with ip := 0xFF82 } (fun t => t.status) .running =
      .faulted ⟨.streamExhaustion, 0xFF82, []⟩ := by decide

/-- V-SRC-10: the dump's order. -/
theorem test_dump_order : ({ State.reset with regs := ⟨0, 1, 2, 3, 4, 5, 6, 7⟩, status := .halted }).dump =
    some [0, 3, 1, 2, 4, 5, 6, 7] := by decide

/-! ### Trace records -/

/-- P0's record. -/
theorem test_trace_mov : after (start [0xB8, 0x05, 0x00]) (fun t => t.trace) [] =
    [{ mnemonic := .mov, dstText := "ax", srcText := some "5", width := some .word, bytes := [0xB8, 0x05, 0x00], here := 0,
       pre := .word 0, post := .word 5 }] := by decide

/-- R108's `sub word [bp - 2], 1` and R109's `mov al, -1`. -/
theorem test_display : dstTextOf 0 (.subRmImm true .word (.based .bp (.d8 0xFE)) (.imm8 1)) = "word [bp - 2]" ∧
    srcTextOf (.movRegImm .byte .r0 (.imm8 0xFF)) = some "-1" := by decide

/-- R108's `jz 0` at offset 5. -/
theorem test_display_jump : dstTextOf 5 (.jzRel8 0xF9) = "0" := by decide

/-! ### The launch -/

/-- R72 and R50: a launch with a hidden `JZ_OPCODE` takes no step. -/
theorem test_launch_refused : ({ State.reset with cfg := { Config.default with jzOpcode := 0x83 } }).launchProblem =
    some (.jzOpcodeHidden 0x83) := by decide

/-- `withFetchWord` after reset: the very next step runs the row's instruction. -/
theorem test_withFetchWord : (State.reset.withFetchWord 16 0x8800).fetch =
    .run (.movRmReg .toRm .byte (.based .bxSi .none) .r0) := by decide

/-! ### Witnesses: for each statement with hypotheses, inputs that meet them together, with each clause at a boundary -/

/-- Whether a step or a meaning goes on. -/
def goesOn (r : Result) : Bool :=
  match r with
  | .next _ => true
  | .fault _ => false
  | .refused _ => false

/-- The state with another fetch mode or memory model. -/
def linear (s : State) : State := { s with cfg := { s.cfg with fetchMode := .linear } }

/-- The state under INERT, which has no data memory. -/
def inert (s : State) : State := { s with cfg := { s.cfg with memoryModel := .inert } }

/-- An image of zeros. -/
def zeroImage : List Byte := List.replicate 65536 0

/-- LaunchSetsResetValues and ResetIsTheDefaultLaunch. -/
theorem witness_launch : zeroImage.length = 65536 ∧ (∀ b ∈ zeroImage, b = 0#8) ∧
    jzOpcodeAllowed Config.default.jzOpcode = true ∧ ([0x74, 0xFE] : List Byte).length ≤ 0xFFFF ∧
    Config.default.memoryModel = .backed :=
  ⟨List.length_replicate, fun _ h => List.eq_of_mem_replicate h, by decide, by decide, rfl⟩

/-- LaunchRefusedOutsideParameters and JzOpcodeAllowedWhenNotHidden: the borders of every range of R72. -/
theorem witness_jz_ranges : ([0x03, 0x08, 0x2B, 0x30, 0x3B, 0x40, 0x7F, 0x84, 0x87, 0x8C, 0xAF, 0xC0].all jzOpcodeAllowed ∧
    [0x04, 0x07, 0x2C, 0x2F, 0x3C, 0x3F, 0x80, 0x83, 0x88, 0x8B, 0xB0, 0xBF].all fun jz => !jzOpcodeAllowed jz) := by decide

/-- LaunchRefusedOutsideParameters: the longest stream, and one byte more. -/
theorem witness_stream_length : (List.replicate 0xFFFF (0 : Byte)).length ≤ 0xFFFF ∧
    0xFFFF < (List.replicate 0x10000 (0 : Byte)).length := by
  rw [List.length_replicate, List.length_replicate]; decide

/-- DataReadsAreLittleEndian, DataWritesAreLittleEndian and ReadReturnsTheLastWrite: both memory models, at 0xFFFF. -/
theorem witness_data_memory : Memory.wf (putMem [(0x0000, 0x12), (0xFFFF, 0x34)] (start [])).mem = true ∧
    (start []).cfg.memoryModel = .backed ∧ Memory.wf (inert (start [])).mem = true ∧
    (inert (start [])).cfg.memoryModel = .inert ∧
    ((putMem [(0xFFFF, 0x34)] (start [])).memWrite .word 0xFFFF 0x1200).mem = [(0x0000, 0x12)] := by decide

/-- DecodeOfEncode: the longest form, and the DEFAULT forms under a `JZ_OPCODE` beside the one that would hide them. -/
theorem witness_encode : (Instr.addRmImm false .word (.based .bx (.d16 0x1234)) (.imm16 0x5678)).wf = true ∧
    (Instr.addRmReg .toRm .word (.direct 0) .r0).wf = true ∧ jzOpcodeAllowed 0x00 = true ∧
    (Instr.addRmReg .toRm .word (.direct 0) .r0).hiddenBy 0x00 = false ∧
    (Instr.addRmReg .toRm .byte (.direct 0) .r0).hiddenBy 0x00 = true := by decide

/-- The length of the instruction that bytes decode to; 0 if they decode to none. -/
def lenOf (bs : List Byte) : Nat :=
  match dec bs with
  | .ok r => r.1.length
  | .error _ => 0

/-- InstructionLengths: each clause, the vectors of section 2.1 (D-13, D-17, D-10, D-11, D-1, D-3, D-2, D-4, D-7, D-18, D-6,
D-9, D-8) and B0 80 of M-5. -/
theorem witness_lengths : lenOf [0x74, 0xFB] = 2 ∧ lenOf [0xBF, 0xFF, 0xFF] = 3 ∧ lenOf [0xB0, 0x80] = 2 ∧
    lenOf [0x05, 0xE8, 0x03] = 3 ∧ lenOf [0x2C, 0x09] = 2 ∧ lenOf [0x89, 0xD9] = 2 ∧ lenOf [0x8B, 0x46, 0x00] = 3 ∧
    lenOf [0x8B, 0x06, 0x02, 0x01] = 4 ∧ lenOf [0x8A, 0x80, 0x00, 0x10] = 4 ∧ lenOf [0x83, 0xC3, 0xF6] = 3 ∧
    lenOf [0x82, 0xC1, 0x80] = 3 ∧ lenOf [0x81, 0xC3, 0x10, 0x27] = 4 ∧ lenOf [0x80, 0x3E, 0x00, 0x02, 0x05] = 5 ∧
    lenOf [0x81, 0x87, 0x34, 0x12, 0x78, 0x56] = 6 := by decide

/-- EncodeOfDecode, DecodingASliceAgain and InstructionLengths: the shortest and the longest instruction. -/
theorem witness_decode : jzOpcodeAllowed 0x74 = true ∧ dec [0x74, 0xFB, 0x90] = .ok (.jzRel8 0xFB, [0x90]) ∧
    dec [0x81, 0x06, 0x34, 0x12, 0x78, 0x56] = .ok (.addRmImm false .word (.direct 0x1234) (.imm16 0x5678), []) := by decide

/-- The operation a byte 0 begins, its byte 1 being as given; none if it begins no instruction. -/
def opOf (b0 b1 : Byte) : Option Mnemonic :=
  match dec [b0, b1, 0, 0, 0, 0] with
  | .ok r => some (mnemonicOf r.1)
  | .error _ => none

/-- OpcodeMap: the borders of every row of R105. -/
theorem witness_opcode_map : [0x00, 0x07].all (fun b => opOf b 0 == some .add) ∧
    [0x28, 0x2F].all (fun b => opOf b 0 == some .sub) ∧ [0x38, 0x3F].all (fun b => opOf b 0 == some .cmp) ∧
    opOf 0x74 0 = some .jz ∧ [0x88, 0x8B, 0xB0, 0xBF].all (fun b => opOf b 0 == some .mov) ∧
    [0x80, 0x83].all (fun b => opOf b 0x00 == some .add && opOf b 0x28 == some .sub && opOf b 0x38 == some .cmp &&
      opOf b 0x08 == none && opOf b 0x30 == none) ∧
    [0x08, 0x27, 0x30, 0x37, 0x40, 0x73, 0x75, 0x7F, 0x84, 0x87, 0x8C, 0xAF, 0xC0, 0xFF].all
      (fun b => opOf b 0 == none) := by decide

/-- StepRunsTheDecodedInstruction, in both fetch modes. -/
theorem witness_step : (start [0x89, 0xD9]).launchProblem = none ∧ (start [0x89, 0xD9]).status = .running ∧
    dec ((start [0x89, 0xD9]).code.drop (start [0x89, 0xD9]).fetchAddr.toNat) =
      .ok (.movRmReg .toRm .word (.reg .r1) .r3, []) ∧
    (linear { start [0x89, 0xD9] with ip := 7 }).fetchAddr = 0 := by decide

/-- HaltAtTheStreamsEnd and EndedRunsTakeNoStep. -/
theorem witness_ends : State.reset.launchProblem = none ∧ State.reset.fetchAddr.toNat = State.reset.code.length ∧
    ({ State.reset with status := .halted }).launchProblem = none ∧
    ({ State.reset with status := .faulted ⟨.streamExhaustion, 0, []⟩ }).launchProblem = none := by decide

/-- The status after a step. -/
def statusAfter (bs : List Byte) (ip : Word) : Status := after { start bs with ip := ip } (fun t => t.status) .halted

/-- FaultChecksInOrder, each check where the next one would fail too, and FaultsArePrecise. R208's own examples are the
third, fourth and sixth lines. -/
theorem witness_fault_checks :
    statusAfter [0x90] 2 = .faulted ⟨.streamExhaustion, 2, []⟩ ∧
      statusAfter [0x90] 1 = .halted ∧
      statusAfter [0x0F] 0 = .faulted ⟨.unknownOperation, 0, [0x0F]⟩ ∧
      statusAfter [0x83] 0 = .faulted ⟨.streamExhaustion, 0, [0x83]⟩ ∧
      statusAfter [0x03] 0 = .faulted ⟨.streamExhaustion, 0, [0x03]⟩ ∧
      statusAfter [0x80, 0x08] 0 = .faulted ⟨.unknownOperation, 0, [0x80, 0x08]⟩ ∧
      statusAfter [0xB8, 0x00] 0 = .faulted ⟨.streamExhaustion, 0, [0xB8, 0x00]⟩ ∧
      statusAfter [0x74] 0 = .faulted ⟨.streamExhaustion, 0, [0x74]⟩ ∧
      statusAfter [0xB8, 0x00, 0x00] 0 = .running := by decide

/-- LaunchDataNeverWritten, IpAndCursorAdvance, AtMostOneReadThenOneWrite, OneTraceRecordPerInstruction and
CursorIsMonotone: a step that goes on, in both fetch modes; AddCompletes, SubCompletes and MovCompletes: its memory. -/
theorem witness_goes_on : goesOn (step (start [0x01, 0x07])) = true ∧ goesOn (step (linear (start [0x01, 0x07]))) = true ∧
    Memory.wf (start [0x01, 0x07]).mem = true ∧
    goesOn (exec (.jzRel8 0xFE) (start [])) = true ∧ goesOn (exec (.jzRel8 0xFE) (linear (start []))) = true := by decide

/-- IpAndCursorAdvance at the top of the address space: the next address wraps. -/
theorem witness_ip_wraps : after { start [0x74, 0xFE] with ip := 0xFFFF } (fun t => t.status) .running =
      .faulted ⟨.streamExhaustion, 0xFFFF, []⟩ ∧
    ({ start [] with ip := 0xFFFF }).nextAddr 2 = 1 := by decide

/-- FlagWriters and OnlyJzReadsTheFlags: each kind of writer, and MOV without MOV_WRITES_FLAGS. -/
theorem witness_flag_writers : goesOn (exec (.movRegImm .byte .r0 (.imm8 0)) (start [])) = true ∧
    goesOn (exec (.movRegImm .byte .r0 (.imm8 0)) { start [] with cfg := { Config.default with movWritesFlags := false } }) ∧
    goesOn (exec (.cmpAccImm false .word (.imm16 0)) (start [])) = true ∧ goesOn (exec (.jzRel8 0) (start [])) = true := by
  decide

/-- OnlyZfIsEverRead: another flags word with the same ZF, before a JZ, which writes no flags, and before a CMP, which does. -/
theorem witness_zf : (0x0080#16).getLsbD 6 = (start [0x74, 0x00]).flags.getLsbD 6 ∧
    (0xFFFF#16).getLsbD 6 = ((start [0x74, 0x00]).setFlag zfBit true).flags.getLsbD 6 ∧
    goesOn (step (start [0x74, 0x00])) = true ∧ writesFlags Config.default (.jzRel8 0) = false ∧
    (0xFFBF#16).getLsbD 6 = (start [0x3C, 0x10]).flags.getLsbD 6 ∧ goesOn (step (start [0x3C, 0x10])) = true ∧
    dec [0x3C, 0x10] = .ok (.cmpAccImm false .byte (.imm8 0x10), []) ∧
    writesFlags Config.default (.cmpAccImm false .byte (.imm8 0x10)) = true := by decide

/-- InertMemoryIsNeverRead: a step that writes memory under INERT. -/
theorem witness_inert : (inert (start [0x89, 0x0F])).cfg.memoryModel = .inert ∧
    goesOn (step (inert (start [0x89, 0x0F]))) = true := by decide

/-- RegisterFormsNeverAccessMemory: a form with two registers. -/
theorem witness_register_form : goesOn (exec (.addRmReg .toRm .word (.reg .r0) .r1) (start [])) = true := by decide

/-- InvariantKept, CursorIsMonotone and LinearRunsEnd: a running LINEAR state with the invariant, whose step goes on. -/
theorem witness_inv : Inv (linear (start [0x01, 0x07])) ∧ (linear (start [0x01, 0x07])).status = .running ∧
    (linear (start [0x01, 0x07])).cfg.fetchMode = .linear ∧ goesOn (step (linear (start [0x01, 0x07]))) = true :=
  ⟨⟨by decide, by decide, by decide, by decide, by decide⟩, by decide, by decide, by decide⟩

/-- InvariantAtLaunch: a launch that is not refused. -/
theorem witness_invariant_at_launch : goesOn (State.launch Config.default [0x74, 0xFE] [0x01]) = true := by decide

/-- TakenSelfJumpNeverEnds: 74 FE with ZF set, R235's example. -/
theorem witness_self_jump : ((start [0x74, 0xFE]).setFlag zfBit true).launchProblem = none ∧
    ((start [0x74, 0xFE]).setFlag zfBit true).status = .running ∧ (start [0x74, 0xFE]).cfg.fetchMode = .follow ∧
    ((start [0x74, 0xFE]).setFlag zfBit true).zf = true ∧
    (start [0x74, 0xFE]).code.drop (start [0x74, 0xFE]).ip.toNat = 0x74#8 :: 0xFE#8 :: [] := by decide

end Sys2Proof.Tests
end

section
/-! What a launch answers, and the reset state as the launch with the default parameters (spec/00_scope.md R8,
spec/10_state.md R35). -/

namespace Sys2Proof.Machine

/-- An image lists only the bytes that differ from what an unlisted address reads as. -/
theorem Memory.ofImageFrom_of_forall_unlisted (img : List Byte) (a : Nat) (h : ∀ b ∈ img, b = Memory.unlisted) :
    Memory.ofImageFrom a img = [] := by
  induction img generalizing a with
  | nil => rfl
  | cons v vs ih =>
    obtain ⟨hv, hvs⟩ := List.forall_mem_cons.mp h
    rw [Memory.ofImageFrom, ih (a + 1) hvs, Memory.entry, if_pos hv]

theorem Memory.ofImage_of_forall_unlisted (img : List Byte) (h : ∀ b ∈ img, b = Memory.unlisted) :
    Memory.ofImage img = [] :=
  Memory.ofImageFrom_of_forall_unlisted _ 0 fun b hb => h b (List.mem_of_mem_take hb)

theorem State.launch_of_launchProblem_eq_none {cfg : LaunchConfig} {code img : List Byte}
    (h : (State.launched cfg code img).launchProblem = none) :
    State.launch cfg code img = .next (State.launched cfg code img) := by
  rw [State.launch, h]

/-- The default parameters are BACKED, so of the fields of `State.reset` only the memory depends on the image. -/
theorem State.launched_default_nil (img : List Byte) :
    State.launched Config.default [] img = { State.reset with mem := Memory.ofImage img } := rfl

theorem State.launched_default_nil_of_forall_zero (img : List Byte) (h : ∀ b ∈ img, b = 0#8) :
    State.launched Config.default [] img = State.reset := by
  rw [State.launched_default_nil, Memory.ofImage_of_forall_unlisted img h]
  rfl

theorem State.launchProblem_reset : State.reset.launchProblem = none := by decide

end Sys2Proof.Machine

namespace Sys2Proof.Proofs
open Sys2Proof.Machine

/-- Settles O2: an image of zeros lists no byte, so the launched state is `State.reset`, whose parameters no launch
refuses. -/
theorem resetIsTheDefaultLaunch : Obligations.ResetIsTheDefaultLaunch := by
  intro img _ hzero
  have hreset := State.launched_default_nil_of_forall_zero img hzero
  have hok : (State.launched Config.default [] img).launchProblem = none := by
    rw [hreset, State.launchProblem_reset]
  rw [State.launch_of_launchProblem_eq_none hok, hreset]

end Sys2Proof.Proofs
end

section
/-! The decoder's length account and the step's inversion (spec/30_encoding.md R100, spec/40_execution.md R120): what a
decoded instruction takes from the stream, and the only ways in which a step goes on. -/

namespace Sys2Proof

/-- The r/m operand has the displacement bytes of its mod and rm (R90, R100). -/
@[simp] theorem RmOperand.dispLen_rmOf (mod : BitVec 2) (rm : BitVec 3) (tr : List Byte) :
    (rmOf mod rm tr).dispLen = Sys2Proof.dispLen mod rm := by
  unfold rmOf Sys2Proof.dispLen
  split_ifs <;> rfl

/-- The instruction of a header's fields has their length (R100). -/
theorem Instr.length_of_assemble {f : Fields} {x : BitVec 1} {tr : List Byte} {i : Instr}
    (h : assemble f x tr = some i) : i.length = f.len := by
  cases f with
  | immToReg w reg => cases h; rfl
  | regMem d w mod reg rm => cases h; simp [Instr.length, Fields.len]
  | immToRm s w mod op3 rm =>
    obtain ⟨op, -, rfl⟩ := Option.map_eq_some_iff.mp h
    cases op <;> simp [rmImmInstr, Instr.length, Fields.len]
  | immToAcc op6 w =>
    obtain ⟨op, -, rfl⟩ := Option.map_eq_some_iff.mp h
    cases op <;> rfl
  | shortJump => cases h; rfl
  | default op6 d w mod reg rm =>
    obtain ⟨op, -, rfl⟩ := Option.map_eq_some_iff.mp h
    cases op <;> simp [rmRegInstr, Instr.length, Fields.len]

theorem length_le_of_decodeFields {f : Fields} {x : BitVec 1} {n : Nat} {bs rest : List Byte} {i : Instr}
    (h : decodeFields f x n bs = .ok (i, rest)) : i.length ≤ bs.length := by
  unfold decodeFields at h
  split at h
  · cases h
  · next hlen =>
    split at h
    · next j hj =>
      cases h
      rw [Instr.length_of_assemble hj]
      omega
    · cases h

/-- A decoded instruction lies within the bytes it is decoded from (R102). -/
theorem length_le_of_decode {jz : Byte} {bs rest : List Byte} {i : Instr} (h : decode jz bs = .ok (i, rest)) :
    i.length ≤ bs.length := by
  cases bs with
  | nil => cases h
  | cons b0 tl =>
    simp only [decode] at h
    split_ifs at h
    exact length_le_of_decodeFields h

end Sys2Proof

namespace Sys2Proof.Machine

variable {s t : State} {i : Instr} {rest : List Byte}

theorem State.fetch_of_running (hl : s.launchProblem = none) (hr : s.status = .running) : s.fetch = s.fetchRunning := by
  rw [State.fetch, hl, hr]

theorem State.fetch_of_halted (hl : s.launchProblem = none) (hh : s.status = .halted) : s.fetch = .stop .halted := by
  rw [State.fetch, hl, hh]

theorem State.fetch_of_faulted {r : FaultRecord} (hl : s.launchProblem = none) (hf : s.status = .faulted r) :
    s.fetch = .stop (.faulted r) := by
  rw [State.fetch, hl, hf]

/-- Where bytes at the fetch address decode, that address lies before the stream's end. -/
theorem State.fetchAddr_lt_of_decode (h : decode s.cfg.jzOpcode (s.streamFrom s.fetchAddr) = .ok (i, rest)) :
    s.fetchAddr.toNat < s.code.length := by
  by_contra hge
  rw [State.streamFrom, List.drop_eq_nil_of_le (by omega)] at h
  cases h

theorem State.fetchRunning_eq_run_iff :
    s.fetchRunning = .run i ↔ ∃ rest, decode s.cfg.jzOpcode (s.streamFrom s.fetchAddr) = .ok (i, rest) := by
  constructor
  · intro h
    unfold State.fetchRunning at h
    split_ifs at h
    split at h
    · next r hr =>
      cases h
      exact ⟨r.2, hr⟩
    · cases h
  · rintro ⟨rest, h⟩
    have hlt := State.fetchAddr_lt_of_decode h
    rw [State.fetchRunning, if_neg (by omega), if_neg (by omega), h]

/-- Only a running state of a launch that is not refused takes a step (R34, R50, R72). -/
theorem running_of_step (h : step s = .next t) : s.launchProblem = none ∧ s.status = .running := by
  cases hl : s.launchProblem with
  | some r => simp [step, State.fetch, hl] at h
  | none =>
    cases hs : s.status with
    | running => exact ⟨rfl, rfl⟩
    | halted => simp [step, State.fetch_of_halted hl hs] at h
    | faulted r => simp [step, State.fetch_of_faulted hl hs] at h

/-- A step that goes on halts the run, raises a fault or runs the instruction at the fetch address (R120). -/
theorem step_cases (h : step s = .next t) :
    (s.fetch = .halt ∧ t = s.halt) ∨
    (∃ kind here examined, s.fetch = .raise kind here examined ∧ t = s.raise kind here examined) ∨
    (∃ i, s.fetch = .run i ∧ exec i s = .next t) := by
  unfold step at h
  split at h
  · cases h
  · cases h
  · next hf =>
    cases h
    exact .inl ⟨hf, rfl⟩
  · next kind here examined hf =>
    cases h
    exact .inr (.inl ⟨kind, here, examined, hf, rfl⟩)
  · next i hf => exact .inr (.inr ⟨i, hf, h⟩)

/-- A step that goes on writes the status alone or runs an instruction (R120, R123, R206). -/
theorem step_status_or_exec (h : step s = .next t) :
    (∃ st, t = { s with status := st }) ∨ ∃ i, s.fetch = .run i ∧ exec i s = .next t := by
  obtain ⟨_, rfl⟩ | ⟨_, _, _, _, rfl⟩ | hrun := step_cases h
  · exact .inl ⟨_, rfl⟩
  · exact .inl ⟨_, rfl⟩
  · exact .inr hrun

/-- The instruction a step runs is the one that the stream decodes to (R120, R121). -/
theorem fetch_eq_run_iff_of_step (h : step s = .next t) :
    s.fetch = .run i ↔ ∃ rest, decode s.cfg.jzOpcode (s.streamFrom s.fetchAddr) = .ok (i, rest) := by
  obtain ⟨hl, hr⟩ := running_of_step h
  rw [State.fetch_of_running hl hr, State.fetchRunning_eq_run_iff]

end Sys2Proof.Machine
end

section
/-! The shared rule behind each instruction's meaning, and how a step meets the flags word (spec/10_state.md R28,
R29). -/

namespace Sys2Proof.Machine

/-- `s` with another flags word. -/
def State.withFlags (s : State) (f : Word) : State := { s with flags := f }

variable (s : State) (f : Word)

@[simp] theorem withFlags_regs : (s.withFlags f).regs = s.regs := rfl
@[simp] theorem withFlags_flags : (s.withFlags f).flags = f := rfl
@[simp] theorem withFlags_cfg : (s.withFlags f).cfg = s.cfg := rfl
@[simp] theorem withFlags_zf : (s.withFlags f).zf = f.getLsbD zfBit := rfl
@[simp] theorem setFlags_withFlags (w : Width) (r : w.Val) : (s.setFlags w r).withFlags f = s.withFlags f := rfl
@[simp] theorem fetch_withFlags : (s.withFlags f).fetch = s.fetch := rfl
@[simp] theorem halt_withFlags : (s.withFlags f).halt = s.halt.withFlags f := rfl
@[simp] theorem raise_withFlags (k : FaultKind) (a : Word) (n : Nat) :
    (s.withFlags f).raise k a n = (s.raise k a n).withFlags f := rfl
@[simp] theorem emit_withFlags (r : TraceRecord) : (s.withFlags f).emit r = (s.emit r).withFlags f := rfl
@[simp] theorem record_withFlags (i : Instr) (pre post : Value) :
    (s.withFlags f).record i pre post = s.record i pre post := rfl
@[simp] theorem emit_setFlags (w : Width) (v : w.Val) (r : TraceRecord) :
    (s.setFlags w v).emit r = (s.emit r).setFlags w v := rfl

@[simp] theorem advance_withFlags (len : Nat) : (s.withFlags f).advance len = (s.advance len).withFlags f := by
  unfold State.advance
  rw [withFlags_cfg]
  split <;> rfl

@[simp] theorem resolveRm_withFlags (w : Width) (rm : RmOperand) :
    (s.withFlags f).resolveRm w rm = s.resolveRm w rm := by
  cases rm <;> rfl

@[simp] theorem rmRegDst_withFlags (d : Direction) (w : Width) (rm : RmOperand) (reg : RegNum) :
    (s.withFlags f).rmRegDst d w rm reg = s.rmRegDst d w rm reg := by
  cases d <;> simp [State.rmRegDst]

@[simp] theorem rmRegSrc_withFlags (d : Direction) (w : Width) (rm : RmOperand) (reg : RegNum) :
    (s.withFlags f).rmRegSrc d w rm reg = s.rmRegSrc d w rm reg := by
  cases d <;> simp [State.rmRegSrc]

@[simp] theorem memRead_withFlags (w : Width) (a : Word) :
    (s.withFlags f).memRead w a = ((s.memRead w a).1, (s.memRead w a).2.withFlags f) := by
  unfold State.memRead
  rw [withFlags_cfg]
  split <;> rfl

@[simp] theorem memObserve_withFlags (w : Width) (a : Word) :
    (s.withFlags f).memObserve w a = ((s.memObserve w a).1, (s.memObserve w a).2.withFlags f) := by
  unfold State.memObserve
  rw [withFlags_cfg]
  split <;> rfl

@[simp] theorem memWrite_withFlags (w : Width) (a : Word) (v : w.Val) :
    (s.withFlags f).memWrite w a v = (s.memWrite w a v).withFlags f := by
  unfold State.memWrite
  rw [withFlags_cfg]
  cases w <;> split <;> rfl

@[simp] theorem readOp_withFlags {w : Width} (o : Operand w) :
    (s.withFlags f).readOp o = ((s.readOp o).1, (s.readOp o).2.withFlags f) := by
  cases o <;> simp [State.readOp, State.readReg]

@[simp] theorem observeOp_withFlags {w : Width} (o : Operand w) :
    (s.withFlags f).observeOp o = ((s.observeOp o).1, (s.observeOp o).2.withFlags f) := by
  cases o <;> simp [State.observeOp, State.readReg]

@[simp] theorem writeOp_withFlags {w : Width} (o : Operand w) (v : w.Val) :
    (s.withFlags f).writeOp o v = (s.writeOp o v).withFlags f := by
  cases o with
  | reg n => cases w <;> rfl
  | mem a => simp [State.writeOp]
  | imm x => rfl

end Sys2Proof.Machine

namespace Sys2Proof.Machine

theorem State.zf_eq_getLsbD (s : State) : s.zf = s.flags.getLsbD 6 := rfl

/-- The shared rule behind an instruction's meaning. Its operands are those of the state before the step, and no flags word
moves them (R127). -/
inductive SharedRule (i : Instr) : Prop where
  | arith (w : Width) (op : w.Val → w.Val → w.Val) (dst src : State → Operand w)
      (mnemonic : mnemonicOf i = .add ∨ mnemonicOf i = .sub) (width : widthOf i = some w)
      (dst_eq : ∀ s f, dst (s.withFlags f) = dst s) (src_eq : ∀ s f, src (s.withFlags f) = src s)
      (exec_eq : ∀ s, exec i s = .next (s.runArith i op (dst s) (src s)))
  | cmp (w : Width) (dst src : State → Operand w)
      (mnemonic : mnemonicOf i = .cmp) (width : widthOf i = some w)
      (dst_eq : ∀ s f, dst (s.withFlags f) = dst s) (src_eq : ∀ s f, src (s.withFlags f) = src s)
      (exec_eq : ∀ s, exec i s = .next (s.runCmp i (dst s) (src s)))
  | mov (w : Width) (dst src : State → Operand w)
      (mnemonic : mnemonicOf i = .mov) (width : widthOf i = some w)
      (dst_eq : ∀ s f, dst (s.withFlags f) = dst s) (src_eq : ∀ s f, src (s.withFlags f) = src s)
      (exec_eq : ∀ s, exec i s = .next (s.runMov i (dst s) (src s)))
  | jz (disp : Byte) (eq : i = .jzRel8 disp)

/-- Every instruction has its meaning by a shared rule. -/
theorem sharedRule (i : Instr) : SharedRule i := by
  cases i with
  | movRmReg d w rm reg =>
    exact .mov w (·.rmRegDst d w rm reg) (·.rmRegSrc d w rm reg) rfl rfl (by simp) (by simp) fun _ => rfl
  | movRegImm w reg imm =>
    exact .mov w (fun _ => .reg reg) (fun _ => .imm (immVal w imm)) rfl rfl (by simp) (by simp) fun _ => rfl
  | addRmReg d w rm reg =>
    exact .arith w addN (·.rmRegDst d w rm reg) (·.rmRegSrc d w rm reg) (.inl rfl) rfl (by simp) (by simp) fun _ => rfl
  | subRmReg d w rm reg =>
    exact .arith w subN (·.rmRegDst d w rm reg) (·.rmRegSrc d w rm reg) (.inr rfl) rfl (by simp) (by simp) fun _ => rfl
  | cmpRmReg d w rm reg =>
    exact .cmp w (·.rmRegDst d w rm reg) (·.rmRegSrc d w rm reg) rfl rfl (by simp) (by simp) fun _ => rfl
  | addRmImm sx w rm imm =>
    exact .arith w addN (·.resolveRm w rm) (fun _ => .imm (immVal w imm)) (.inl rfl) rfl (by simp) (by simp) fun _ => rfl
  | subRmImm sx w rm imm =>
    exact .arith w subN (·.resolveRm w rm) (fun _ => .imm (immVal w imm)) (.inr rfl) rfl (by simp) (by simp) fun _ => rfl
  | cmpRmImm sx w rm imm =>
    exact .cmp w (·.resolveRm w rm) (fun _ => .imm (immVal w imm)) rfl rfl (by simp) (by simp) fun _ => rfl
  | addAccImm x w imm =>
    exact .arith w addN (fun _ => .reg .r0) (fun _ => .imm (immVal w imm)) (.inl rfl) rfl (by simp) (by simp) fun _ => rfl
  | subAccImm x w imm =>
    exact .arith w subN (fun _ => .reg .r0) (fun _ => .imm (immVal w imm)) (.inr rfl) rfl (by simp) (by simp) fun _ => rfl
  | cmpAccImm x w imm =>
    exact .cmp w (fun _ => .reg .r0) (fun _ => .imm (immVal w imm)) rfl rfl (by simp) (by simp) fun _ => rfl
  | jzRel8 disp => exact .jz disp rfl

variable (s t : State) (i : Instr) {w : Width} (dst src : Operand w)

/-- The result of ADD and SUB does not depend on the flags word, and gives ZF and SF in whatever word it is set. -/
theorem runArith_withFlags (op : w.Val → w.Val → w.Val) :
    ∃ r, ∀ f, (s.withFlags f).runArith i op dst src = ((s.runArith i op dst src).withFlags f).setFlags w r :=
  ⟨op ((s.advance i.length).readOp dst).1 (((s.advance i.length).readOp dst).2.readOp src).1, fun f => by
    simp [State.runArith]⟩

theorem runCmp_withFlags :
    ∃ r, ∀ f, (s.withFlags f).runCmp i dst src = ((s.runCmp i dst src).withFlags f).setFlags w r :=
  ⟨subN ((s.advance i.length).readOp dst).1 (((s.advance i.length).readOp dst).2.readOp src).1, fun f => by
    simp [State.runCmp]⟩

theorem runMov_withFlags_of_writes (hw : s.cfg.movWritesFlags = true) :
    ∃ r, ∀ f, (s.withFlags f).runMov i dst src = ((s.runMov i dst src).withFlags f).setFlags w r :=
  ⟨(((s.advance i.length).observeOp dst).2.readOp src).1, fun f => by simp [State.runMov, State.setFlagsMov, hw]⟩

theorem runMov_withFlags_of_not_writes (hw : s.cfg.movWritesFlags = false) (f : Word) :
    (s.withFlags f).runMov i dst src = (s.runMov i dst src).withFlags f := by
  simp [State.runMov, State.setFlagsMov, hw]

theorem jumpIfZero_withFlags (disp : Byte) (f : Word) (hf : f.getLsbD zfBit = s.zf) :
    (s.withFlags f).jumpIfZero disp = (s.jumpIfZero disp).withFlags f := by
  rw [State.jumpIfZero, State.jumpIfZero, withFlags_zf, hf]
  split <;> rfl

/-- JZ reads ZF and no other flag bit (R29, R190). -/
theorem execJzRel8_withFlags (disp : Byte) (f : Word) (hf : f.getLsbD zfBit = s.zf) (h : execJzRel8 disp s = .next t) :
    execJzRel8 disp (s.withFlags f) = .next (t.withFlags f) := by
  cases h
  have hz : f.getLsbD zfBit = (s.advance (Instr.jzRel8 disp).length).zf := by simp [hf, State.zf, State.flag]
  rw [execJzRel8, advance_withFlags, jumpIfZero_withFlags _ _ _ hz, record_withFlags, emit_withFlags]
  rfl

/-- A writer of the flags sets ZF and SF from a result of its width, the same for every flags word at the start, and reads
none of that word's bits (R28, R29). -/
theorem exec_withFlags_of_writes {s t : State} {i : Instr} (h : exec i s = .next t) (hw : writesFlags s.cfg i = true) :
    ∃ (w : Width) (r : w.Val), widthOf i = some w ∧
      ∀ f, exec i (s.withFlags f) = .next ((t.withFlags f).setFlags w r) := by
  cases sharedRule i with
  | arith w op dst src _ hwidth hdst hsrc hexec =>
    obtain ⟨r, hr⟩ := runArith_withFlags s i (dst s) (src s) op
    cases (hexec s).symm.trans h
    exact ⟨w, r, hwidth, fun f => by rw [hexec, hdst, hsrc, hr]⟩
  | cmp w dst src _ hwidth hdst hsrc hexec =>
    obtain ⟨r, hr⟩ := runCmp_withFlags s i (dst s) (src s)
    cases (hexec s).symm.trans h
    exact ⟨w, r, hwidth, fun f => by rw [hexec, hdst, hsrc, hr]⟩
  | mov w dst src hmn hwidth hdst hsrc hexec =>
    obtain ⟨r, hr⟩ := runMov_withFlags_of_writes s i (dst s) (src s) (by simpa [writesFlags, hmn] using hw)
    cases (hexec s).symm.trans h
    exact ⟨w, r, hwidth, fun f => by rw [hexec, hdst, hsrc, hr]⟩
  | jz disp hi => simp [writesFlags, hi, mnemonicOf] at hw

/-- An instruction that writes no flags leaves the word it starts from, and reads none of its bits but ZF, which JZ alone
reads (R28, R29). -/
theorem exec_withFlags_of_not_writes {s t : State} {i : Instr} (h : exec i s = .next t)
    (hw : writesFlags s.cfg i = false) (f : Word) (hf : f.getLsbD zfBit = s.zf ∨ ∀ disp, i ≠ .jzRel8 disp) :
    exec i (s.withFlags f) = .next (t.withFlags f) := by
  cases sharedRule i with
  | arith w op dst src hmn => rcases hmn with hmn | hmn <;> simp [writesFlags, hmn] at hw
  | cmp w dst src hmn => simp [writesFlags, hmn] at hw
  | mov w dst src hmn _ hdst hsrc hexec =>
    cases (hexec s).symm.trans h
    rw [hexec, hdst, hsrc, runMov_withFlags_of_not_writes _ _ _ _ (by simpa [writesFlags, hmn] using hw)]
  | jz disp hi =>
    subst hi
    exact execJzRel8_withFlags s t disp f (hf.resolve_right fun hn => hn disp rfl) h

/-- A writer's ZF and SF, from whatever flags word it starts. -/
theorem exec_flagsOf_of_writes {s t : State} {i : Instr} (h : exec i s = .next t) (hw : writesFlags s.cfg i = true) :
    ∃ (w : Width) (r : w.Val), widthOf i = some w ∧ FlagsOf s t w r ∧
      ∀ f, ∃ t', exec i (s.withFlags f) = .next t' ∧ SameButFlags t t' ∧ FlagsOf (s.withFlags f) t' w r := by
  obtain ⟨w, r, hwidth, hexec⟩ := exec_withFlags_of_writes h hw
  have ht : t = (t.withFlags s.flags).setFlags w r := Host.Outcome.next.inj (h.symm.trans (hexec s.flags))
  exact ⟨w, r, hwidth, flagsOf_congr s (t.withFlags s.flags) t w r rfl (congrArg State.flags ht), fun f =>
    ⟨_, hexec f, rfl, flagsOf_congr _ (t.withFlags f) _ w r rfl rfl⟩⟩

/-- An instruction that writes no flags leaves the flags. -/
theorem exec_flags_of_not_writes {s t : State} {i : Instr} (h : exec i s = .next t)
    (hw : writesFlags s.cfg i = false) : t.flags = s.flags := by
  have hself : exec i s = .next (t.withFlags s.flags) := exec_withFlags_of_not_writes h hw s.flags (.inl rfl)
  have ht : t = t.withFlags s.flags := Host.Outcome.next.inj (h.symm.trans hself)
  rw [ht, withFlags_flags]

/-- Another flags word at the start, with the same ZF where the instruction is JZ, changes nothing of the result but what
the instruction leaves of that word (R28, R29). -/
theorem exec_sameButFlags {s t : State} {i : Instr} (h : exec i s = .next t) (f : Word)
    (hf : f.getLsbD zfBit = s.zf ∨ ∀ disp, i ≠ .jzRel8 disp) :
    ∃ t', exec i (s.withFlags f) = .next t' ∧ SameButFlags t t' ∧ (writesFlags s.cfg i = true → SameZfSf t t' f) ∧
      (writesFlags s.cfg i = false → t.flags = s.flags ∧ t'.flags = f) := by
  cases hw : writesFlags s.cfg i with
  | true =>
    obtain ⟨w, r, _, hflags, hexec⟩ := exec_flagsOf_of_writes h hw
    obtain ⟨t', ht', hsame, hflags'⟩ := hexec f
    exact ⟨t', ht', hsame, fun _ => sameZfSf_of_flagsOf s t t' f w r hflags hflags', nofun⟩
  | false =>
    exact ⟨t.withFlags f, exec_withFlags_of_not_writes h hw f hf, rfl, nofun, fun _ =>
      ⟨exec_flags_of_not_writes h hw, rfl⟩⟩

/-- The same for a step that runs an instruction, from two flags words with the same ZF. -/
theorem step_withFlags_of_run {s t : State} {i : Instr} (h : step s = .next t) (hi : s.fetch = .run i) (f : Word)
    (hzf : f.getLsbD 6 = s.flags.getLsbD 6) :
    ∃ t', step (s.withFlags f) = .next t' ∧ SameButFlags t t' ∧ t'.zf = t.zf ∧
      (writesFlags s.cfg i = true → SameZfSf t t' f) ∧
      (writesFlags s.cfg i = false → t.flags = s.flags ∧ t'.flags = f) := by
  have hstep (u : State) (hu : u.fetch = .run i) : step u = exec i u := by rw [step, hu]
  obtain ⟨t', ht', hsame, hwriter, hkeeper⟩ := exec_sameButFlags (hstep s hi ▸ h) f (.inl hzf)
  refine ⟨t', (hstep (s.withFlags f) hi).trans ht', hsame, ?_, hwriter, hkeeper⟩
  cases hw : writesFlags s.cfg i with
  | true =>
    obtain ⟨hzf', _, _⟩ := hwriter hw
    exact hzf'
  | false =>
    obtain ⟨hflags, hflags'⟩ := hkeeper hw
    rw [State.zf_eq_getLsbD, State.zf_eq_getLsbD, hflags, hflags', hzf]

/-- A halt or a fault reads and writes no flag bit. -/
theorem step_withFlags_of_not_run {s t : State} (h : step s = .next t) (hrun : ∀ i, s.fetch ≠ .run i) (f : Word) :
    step (s.withFlags f) = .next (t.withFlags f) ∧ t.flags = s.flags := by
  obtain ⟨hf, rfl⟩ | ⟨kind, here, examined, hf, rfl⟩ | ⟨i, hf, _⟩ := step_cases h
  · exact ⟨by simp [step, hf], rfl⟩
  · exact ⟨by simp [step, hf], rfl⟩
  · exact absurd hf (hrun i)

/-- The instructions that write no flags (R28). -/
theorem writesFlags_eq_false_iff (cfg : LaunchConfig) (i : Instr) :
    writesFlags cfg i = false ↔ mnemonicOf i = .jz ∨ mnemonicOf i = .mov ∧ cfg.movWritesFlags = false := by
  refine ⟨writesFlags_eq_false cfg i, ?_⟩
  rintro (h | ⟨h, hm⟩) <;> simp [writesFlags, *]

/-- No instruction writes a reserved flag bit (R27). -/
theorem exec_reservedFlags {s t : State} {i : Instr} (h : exec i s = .next t) (k : Nat) (h6 : k ≠ 6) (h7 : k ≠ 7) :
    t.flags.getLsbD k = s.flags.getLsbD k := by
  cases hw : writesFlags s.cfg i with
  | true =>
    obtain ⟨_, _, _, ⟨_, _, hrest⟩, _⟩ := exec_flagsOf_of_writes h hw
    exact hrest k h6 h7
  | false => rw [exec_flags_of_not_writes h hw]

end Sys2Proof.Machine

namespace Sys2Proof.Proofs
open Sys2Proof.Machine

/-- Settles O36: a halt or a fault reads no flag bit, and an instruction reads ZF at most. -/
theorem onlyZfIsEverRead : Obligations.OnlyZfIsEverRead := by
  intro s t f hzf h
  have hdecode (i : Instr) :
      s.fetch = .run i ↔ ∃ rest, decode s.cfg.jzOpcode (s.streamFrom s.fetchAddr) = .ok (i, rest) :=
    fetch_eq_run_iff_of_step h
  by_cases hrun : ∃ i, s.fetch = .run i
  · obtain ⟨i, hi⟩ := hrun
    obtain ⟨rest, hd⟩ := (hdecode i).mp hi
    obtain ⟨t', ht', hsame, hzf', hwriter, hkeeper⟩ := step_withFlags_of_run h hi f hzf
    refine ⟨t', ht', hsame, hzf', fun j rest' hj hw => ?_, fun hall => hkeeper (hall i rest hd)⟩
    have hji : j = i := Fetch.run.inj (((hdecode j).mpr ⟨rest', hj⟩).symm.trans hi)
    exact hwriter (hji ▸ hw)
  · have hno : ∀ i, s.fetch ≠ .run i := fun i hi => hrun ⟨i, hi⟩
    obtain ⟨ht', hflags⟩ := step_withFlags_of_not_run h hno f
    refine ⟨t.withFlags f, ht', rfl, ?_, fun i rest hi => absurd ((hdecode i).mpr ⟨rest, hi⟩) (hno i), fun _ =>
      ⟨hflags, rfl⟩⟩
    rw [State.zf_eq_getLsbD, State.zf_eq_getLsbD, withFlags_flags, hflags, hzf]

/-- Settles O34: a writer sets ZF and SF by the updater, and every other instruction leaves the word. -/
theorem flagWriters : Obligations.FlagWriters := by
  intro i s t h
  rw [← writesFlags_eq_false_iff]
  refine ⟨exec_reservedFlags h, exec_flags_of_not_writes h, fun hw => ?_⟩
  obtain ⟨w, r, hwidth, hflags, _⟩ := exec_flagsOf_of_writes h (by simpa using hw)
  exact ⟨w, r, hwidth, hflags⟩

/-- Settles O35: from another flags word a writer sets the same ZF and SF, and a MOV that writes none leaves the word. -/
theorem onlyJzReadsTheFlags : Obligations.OnlyJzReadsTheFlags := by
  intro i s t f hjz h
  obtain ⟨t', ht', hsame, hwriter, hkeeper⟩ := exec_sameButFlags h f (.inr hjz)
  exact ⟨t', ht', hsame, hwriter, fun hw => (hkeeper hw).2⟩

end Sys2Proof.Proofs
end

section
/-! What every instruction and every step leave unchanged, the invariant of a run, and its base cases
(spec/10_state.md R20, R33, R35). -/

namespace Sys2Proof.Machine

theorem wf_writeOp (s : State) {w : Width} (o : Operand w) (v : w.Val) (h : Memory.wf s.mem = true) :
    Memory.wf (s.writeOp o v).mem = true := by
  cases o with
  | reg n => simpa [State.writeOp] using h
  | mem a => exact wf_memWrite s w a v h
  | imm x => exact h

theorem writeOp_mem_inert (s : State) {w : Width} (o : Operand w) (v : w.Val) (h : s.cfg.memoryModel = .inert) :
    (s.writeOp o v).mem = s.mem := by
  cases o <;> simp [State.writeOp, h]

/-- What an instruction leaves of the state vector and of the launch data, and where it moves the cursor (R20, R33). -/
theorem exec_cycleKept {s t : State} {i : Instr} (h : exec i s = .next t) : CycleKept s t i.length := by
  cases sharedRule i with
  | arith w op dst src _ _ _ _ hexec =>
    cases (hexec s).symm.trans h
    simp +contextual [CycleKept, State.runArith, State.nextAddr]
  | cmp w dst src _ _ _ _ hexec =>
    cases (hexec s).symm.trans h
    simp +contextual [CycleKept, State.runCmp, State.nextAddr]
  | mov w dst src _ _ _ _ hexec =>
    cases (hexec s).symm.trans h
    simp +contextual [CycleKept, State.runMov, State.nextAddr]
  | jz disp hi =>
    subst hi
    cases h
    simp [CycleKept, State.nextAddr]

/-- An instruction keeps the canonical form of data memory (R54, R56). -/
theorem wf_exec {s t : State} {i : Instr} (h : exec i s = .next t) (hwf : Memory.wf s.mem = true) :
    Memory.wf t.mem = true := by
  cases sharedRule i with
  | arith w op dst src _ _ _ _ hexec =>
    cases (hexec s).symm.trans h
    exact wf_writeOp _ _ _ (by simpa using hwf)
  | cmp w dst src _ _ _ _ hexec =>
    cases (hexec s).symm.trans h
    simpa [State.runCmp] using hwf
  | mov w dst src _ _ _ _ hexec =>
    cases (hexec s).symm.trans h
    simp only [State.runMov, emit_mem, setFlagsMov_mem]
    exact wf_writeOp _ _ _ (by simpa using hwf)
  | jz disp hi =>
    subst hi
    cases h
    simpa using hwf

/-- Under INERT an instruction leaves the memory field (R56). -/
theorem exec_mem_inert {s t : State} {i : Instr} (h : exec i s = .next t) (hm : s.cfg.memoryModel = .inert) :
    t.mem = s.mem := by
  cases sharedRule i with
  | arith w op dst src _ _ _ _ hexec =>
    cases (hexec s).symm.trans h
    simp [State.runArith, writeOp_mem_inert, hm]
  | cmp w dst src _ _ _ _ hexec =>
    cases (hexec s).symm.trans h
    simp [State.runCmp]
  | mov w dst src _ _ _ _ hexec =>
    cases (hexec s).symm.trans h
    simp [State.runMov, writeOp_mem_inert, hm]
  | jz disp hi =>
    subst hi
    cases h
    simp

/-- No step writes the stream or the launch parameters (R20). -/
theorem step_launchData {s t : State} (h : step s = .next t) : t.code = s.code ∧ t.cfg = s.cfg := by
  obtain ⟨_, rfl⟩ | ⟨i, _, hexec⟩ := step_status_or_exec h
  · exact ⟨rfl, rfl⟩
  · obtain ⟨_, hcfg, hcode, _, _⟩ := exec_cycleKept hexec
    exact ⟨hcode, hcfg⟩

theorem State.launchProblem_congr {s t : State} (hcode : t.code = s.code) (hcfg : t.cfg = s.cfg) :
    t.launchProblem = s.launchProblem := by
  rw [State.launchProblem, State.launchProblem, hcode, hcfg]

/-- A launch that is not refused has an allowed `JZ_OPCODE` and a stream that u16 offsets reach (R50, R72). -/
theorem State.launchProblem_eq_none_iff (s : State) :
    s.launchProblem = none ↔ jzOpcodeAllowed s.cfg.jzOpcode = true ∧ s.code.length ≤ 0xFFFF := by
  unfold State.launchProblem Config.maxStreamLength
  split_ifs <;> simp_all

/-- In LINEAR an instruction moves the cursor past its own bytes, which lie in the stream: the sum does not wrap (R33). -/
theorem exec_cursor_linear {s t : State} {i : Instr} {rest : List Byte} (hl : s.launchProblem = none)
    (hd : decode s.cfg.jzOpcode (s.streamFrom s.fetchAddr) = .ok (i, rest)) (h : exec i s = .next t)
    (hm : s.cfg.fetchMode = .linear) :
    t.cursor.toNat = s.cursor.toNat + i.length ∧ s.cursor.toNat + i.length ≤ s.code.length := by
  obtain ⟨_, _, _, hcursor, _⟩ := exec_cycleKept h
  obtain ⟨_, hlen⟩ := s.launchProblem_eq_none_iff.mp hl
  have hhere : s.fetchAddr = s.cursor := by rw [State.fetchAddr, hm]
  have hlt := State.fetchAddr_lt_of_decode hd
  have hroom := length_le_of_decode hd
  rw [State.streamFrom, List.length_drop] at hroom
  rw [hhere] at hlt hroom hcursor
  rw [hcursor, if_pos hm, BitVec.toNat_add, BitVec.toNat_ofNat]
  omega

theorem exec_cursor_follow {s t : State} {i : Instr} (h : exec i s = .next t) (hm : s.cfg.fetchMode = .follow) :
    t.cursor = s.cursor := by
  obtain ⟨_, _, _, hcursor, _⟩ := exec_cycleKept h
  simpa [hm] using hcursor

/-- A step leaves the cursor where it was or moves it forward within the stream (R33). -/
theorem step_cursor {s t : State} (h : step s = .next t) :
    t.cursor = s.cursor ∨
      s.cfg.fetchMode = .linear ∧ s.cursor.toNat ≤ t.cursor.toNat ∧ t.cursor.toNat ≤ s.code.length := by
  obtain ⟨_, rfl⟩ | ⟨i, hi, hexec⟩ := step_status_or_exec h
  · exact .inl rfl
  · cases hm : s.cfg.fetchMode with
    | follow => exact .inl (exec_cursor_follow hexec hm)
    | linear =>
      obtain ⟨rest, hd⟩ := (fetch_eq_run_iff_of_step h).mp hi
      obtain ⟨hl, _⟩ := running_of_step h
      obtain ⟨hmove, hin⟩ := exec_cursor_linear hl hd hexec hm
      exact .inr ⟨rfl, by omega, by omega⟩

/-- The mask of the reserved bits sees no flag but the reserved ones (R27). -/
theorem and_reservedMask_congr (f g : Word) (h : ∀ k, k ≠ 6 → k ≠ 7 → f.getLsbD k = g.getLsbD k) :
    f &&& 0xFF3F#16 = g &&& 0xFF3F#16 := by
  apply BitVec.eq_of_getLsbD_eq
  intro k _
  rw [BitVec.getLsbD_and, BitVec.getLsbD_and]
  by_cases h6 : k = 6
  · simp [h6]
  by_cases h7 : k = 7
  · simp [h7]
  rw [h k h6 h7]

/-- No step writes a reserved flag bit (R27). -/
theorem step_reservedFlags {s t : State} (h : step s = .next t) (k : Nat) (h6 : k ≠ 6) (h7 : k ≠ 7) :
    t.flags.getLsbD k = s.flags.getLsbD k := by
  obtain ⟨_, rfl⟩ | ⟨i, _, hexec⟩ := step_status_or_exec h
  · rfl
  · exact exec_reservedFlags hexec k h6 h7

theorem wf_step {s t : State} (h : step s = .next t) (hwf : Memory.wf s.mem = true) : Memory.wf t.mem = true := by
  obtain ⟨_, rfl⟩ | ⟨i, _, hexec⟩ := step_status_or_exec h
  · exact hwf
  · exact wf_exec hexec hwf

theorem step_mem_inert {s t : State} (h : step s = .next t) (hm : s.cfg.memoryModel = .inert) : t.mem = s.mem := by
  obtain ⟨_, rfl⟩ | ⟨i, _, hexec⟩ := step_status_or_exec h
  · rfl
  · exact exec_mem_inert hexec hm

theorem step_keeps_inv {s t : State} (hinv : Inv s) (h : step s = .next t) : Inv t := by
  obtain ⟨hcode, hcfg⟩ := step_launchData h
  exact
    { memWf := wf_step h hinv.memWf
      noInertMem := fun hm => by
        rw [hcfg] at hm
        rw [step_mem_inert h hm, hinv.noInertMem hm]
      reservedFlags := by
        rw [and_reservedMask_congr _ _ (step_reservedFlags h), hinv.reservedFlags]
      launchOk := by rw [State.launchProblem_congr hcode hcfg, hinv.launchOk]
      cursorInStream := by
        rw [hcode]
        obtain hstay | ⟨_, _, hin⟩ := step_cursor h
        · rw [hstay]
          exact hinv.cursorInStream
        · exact hin }

/-! ### The launch -/

theorem State.launch_eq_next_iff {cfg : LaunchConfig} {code img : List Byte} {s : State} :
    State.launch cfg code img = .next s ↔
      (State.launched cfg code img).launchProblem = none ∧ State.launched cfg code img = s := by
  unfold State.launch
  split <;> simp_all

/-- Under BACKED the launched memory is the image (R35). -/
theorem byteAt_launched {cfg : LaunchConfig} (code : List Byte) {img : List Byte} (himg : img.length = 65536)
    (hm : cfg.memoryModel = .backed) (a : Word) :
    (State.launched cfg code img).byteAt a = img.getD a.toNat 0#8 := by
  have hmem : (State.launched cfg code img).mem = Memory.ofImageFrom 0 img := by
    simp [State.launched, hm, Memory.ofImage, List.take_of_length_le, himg]
  have hget := Memory.get_ofImageFrom img 0 a.toNat (by omega)
  rw [Nat.zero_add] at hget
  rw [State.byteAt, hmem]
  exact hget

theorem readReg_word_launched (cfg : LaunchConfig) (code img : List Byte) (n : RegNum) :
    (State.launched cfg code img).readReg .word n = 0#16 := by
  cases n <;> rfl

theorem readReg_byte_launched (cfg : LaunchConfig) (code img : List Byte) (n : RegNum) :
    (State.launched cfg code img).readReg .byte n = 0#8 := by
  have hcell : (State.launched cfg code img).regs.get (viewCell n) = 0#16 := readReg_word_launched cfg code img _
  rw [State.readReg, Regs.get8, hcell]
  split <;> decide

theorem inv_launched {cfg : LaunchConfig} {code img : List Byte}
    (h : (State.launched cfg code img).launchProblem = none) : Inv (State.launched cfg code img) where
  memWf := by
    cases hm : cfg.memoryModel with
    | backed => simpa [State.launched, hm] using Memory.wf_ofImage img
    | inert => simp [State.launched, hm, Memory.wf, Memory.wfFrom]
  noInertMem := fun (hm : cfg.memoryModel = .inert) => by simp [State.launched, hm]
  reservedFlags := BitVec.zero_and
  launchOk := h
  cursorInStream := Nat.zero_le _

end Sys2Proof.Machine

namespace Sys2Proof.Proofs
open Sys2Proof.Machine

/-- Settles O41: each field of the invariant by its own fact of the step. -/
theorem invariantKept : Obligations.InvariantKept := fun _ _ => step_keeps_inv

/-- Settles O1: the launch is not refused, and the launched state holds the reset values and the image. -/
theorem launchSetsResetValues : Obligations.LaunchSetsResetValues := by
  intro cfg code img himg hjz hlen
  have hok : (State.launched cfg code img).launchProblem = none :=
    (State.launchProblem_eq_none_iff _).mpr ⟨hjz, hlen⟩
  exact ⟨_, State.launch_of_launchProblem_eq_none hok, readReg_word_launched cfg code img,
    readReg_byte_launched cfg code img, rfl, rfl, rfl, rfl, rfl, rfl, byteAt_launched code himg, rfl, rfl⟩

/-- Settles O27: a halt or a fault writes the status alone, and an instruction keeps the launch data. -/
theorem launchDataNeverWritten : Obligations.LaunchDataNeverWritten := fun _ _ => step_launchData

/-- Settles O43: a launch that succeeds answers the launched state of parameters that it does not refuse. -/
theorem invariantAtLaunch : Obligations.InvariantAtLaunch := by
  intro cfg code img s h
  obtain ⟨hok, rfl⟩ := State.launch_eq_next_iff.mp h
  exact inv_launched hok

/-- Settles O44: the cursor moves in LINEAR alone, past an instruction that lies in the stream. -/
theorem cursorIsMonotone : Obligations.CursorIsMonotone := by
  intro s t hinv h
  refine ⟨?_, (step_keeps_inv hinv h).cursorInStream, fun hm => ?_⟩
  · obtain hstay | ⟨_, hle, _⟩ := step_cursor h
    · rw [hstay]
    · exact hle
  · obtain hstay | ⟨hlin, _⟩ := step_cursor h
    · exact hstay
    · cases hm.symm.trans hlin

/-- Settles O5: a byte view reads and writes its half of its cell, and a word write is read back. -/
theorem byteViewsShareTheirCells : Obligations.ByteViewsShareTheirCells := by
  intro s v
  refine ⟨⟨rfl, rfl, rfl, rfl, rfl, rfl, rfl, rfl⟩, ⟨rfl, rfl, rfl, rfl, rfl, rfl, rfl, rfl⟩, fun n u => ?_⟩
  exact Regs.get_set_same s.regs n u

/-- Settles O23: the fetch of an ended run stops. -/
theorem endedRunsTakeNoStep : Obligations.EndedRunsTakeNoStep := by
  intro s hl
  refine ⟨fun hh => ?_, fun r hf => ?_⟩
  · rw [step, State.fetch_of_halted hl hh]
  · rw [step, State.fetch_of_faulted hl hf]

/-- Settles O42: the reset state is the launched state of the default parameters, an empty stream and an empty image. -/
theorem invariantAtReset : Obligations.InvariantAtReset :=
  inv_launched (cfg := Config.default) (code := []) (img := []) State.launchProblem_reset

end Sys2Proof.Proofs
end

section
/-! Data memory at one address: what a read gives and what a write leaves (spec/20_memory.md R55, R56, R62). -/

namespace Sys2Proof.Machine

theorem toNat_joinBytes (hi lo : Byte) : (joinBytes hi lo).toNat = hi.toNat * 256 + lo.toNat := by
  have happend : (joinBytes hi lo).toNat = hi.toNat <<< 8 ||| lo.toNat := BitVec.toNat_append hi lo
  rw [happend, ← Nat.shiftLeft_add_eq_or_of_lt lo.isLt, Nat.shiftLeft_eq]

theorem loByte_eq_ofNat (v : Word) : loByte v = BitVec.ofNat 8 (v.toNat % 256) := by
  apply BitVec.eq_of_toNat_eq
  simp [loByte]

theorem hiByte_eq_ofNat (v : Word) : hiByte v = BitVec.ofNat 8 (v.toNat / 256) := by
  apply BitVec.eq_of_toNat_eq
  simp [hiByte, Nat.shiftRight_eq_div_pow]

theorem memRead_fst_of_backed (s : State) (w : Width) (a : Word) (h : s.cfg.memoryModel = .backed) :
    (s.memRead w a).1 = s.peek w a := by
  rw [State.memRead, h]

theorem memRead_fst_of_inert (s : State) (w : Width) (a : Word) (h : s.cfg.memoryModel = .inert) :
    (s.memRead w a).1 = s.drawn w := by
  rw [State.memRead, h]

theorem byteAt_memWrite_of_backed (s : State) (w : Width) (a : Word) (v : w.Val) (h : s.cfg.memoryModel = .backed)
    (b : Word) : (s.memWrite w a v).byteAt b = (s.poke w a v).byteAt b :=
  byteAt_congr _ _ (by simp [h]) b

theorem peek_congr (s t : State) (w : Width) (a : Word) (h : ∀ b, t.byteAt b = s.byteAt b) :
    t.peek w a = s.peek w a := by
  cases w <;> simp [State.peek, h]

/-- The bytes just written are read back, at 0xFFFF too, since the two addresses of a word differ (R57). -/
theorem peek_poke (s : State) (w : Width) (a : Word) (v : w.Val) (h : Memory.wf s.mem = true) :
    (s.poke w a v).peek w a = v := by
  cases w with
  | byte => exact (byteAt_poke_byte s a a v h).trans (if_pos rfl)
  | word =>
    have hlo : (s.poke .word a v).byteAt a = loByte v := by
      rw [byteAt_poke_word s a a v h, if_neg (ne_add_one a).symm, if_pos rfl]
    have hhi : (s.poke .word a v).byteAt (a + 1#16) = hiByte v := by
      rw [byteAt_poke_word s a _ v h, if_pos rfl]
    rw [State.peek, hlo, hhi, joinBytes_hi_lo]

/-- A word write in R56's own order and terms, with the wrap at 0xFFFF. -/
theorem byteAt_memWrite_word (s : State) (a b : Word) (v : Word) (hwf : Memory.wf s.mem = true)
    (hm : s.cfg.memoryModel = .backed) :
    (s.memWrite .word a v).byteAt b =
      if b = a then BitVec.ofNat 8 (v.toNat % 256) else if b = a + 1#16 then BitVec.ofNat 8 (v.toNat / 256)
      else s.byteAt b := by
  rw [byteAt_memWrite_of_backed s .word a v hm, byteAt_poke_word s a b v hwf, loByte_eq_ofNat, hiByte_eq_ofNat]
  by_cases hb : b = a
  · simp [hb, (ne_add_one a).symm]
  · simp [hb]

end Sys2Proof.Machine

namespace Sys2Proof.Proofs
open Sys2Proof.Machine

/-- Settles O9: a BACKED read peeks, an INERT read draws, and neither writes the memory field. -/
theorem dataReadsAreLittleEndian : Obligations.DataReadsAreLittleEndian := by
  intro s a
  refine ⟨fun hm => ⟨memRead_fst_of_backed s .byte a hm, ?_⟩, fun hm => ⟨?_, ?_, fun w => ?_⟩, fun w => ?_⟩
  · rw [memRead_fst_of_backed s .word a hm]
    exact toNat_joinBytes _ _
  · exact memRead_fst_of_inert s .byte a hm
  · exact memRead_fst_of_inert s .word a hm
  · rw [memRead_draws, if_pos hm]
  · exact memSame_of_mem _ _ (memRead_mem s w a)

/-- Settles O10: a BACKED write is a poke, byte by byte, and an INERT write leaves the memory field. -/
theorem dataWritesAreLittleEndian : Obligations.DataWritesAreLittleEndian := by
  intro s a hwf
  refine ⟨fun hm => ⟨fun v b => ?_, fun v b => byteAt_memWrite_word s a b v hwf hm, fun v => ?_⟩, fun hm w v => ?_⟩
  · rw [byteAt_memWrite_of_backed s .byte a v hm, byteAt_poke_byte s a b v hwf]
  · rw [byteAt_memWrite_word s _ _ v hwf hm, if_neg (by decide), if_pos (by decide)]
  · rw [memWrite_mem, if_pos hm]

/-- Settles O11: a BACKED write pokes, and the peek after it gives the value poked. -/
theorem readReturnsTheLastWrite : Obligations.ReadReturnsTheLastWrite := by
  intro s w a v hwf hm
  rw [memRead_fst_of_backed _ w a (by simp [hm]), peek_congr _ _ w a (byteAt_memWrite_of_backed s w a v hm),
    peek_poke s w a v hwf]

end Sys2Proof.Proofs
end

section
/-! The operands of each instruction, and the data-memory accesses of a step (spec/20_memory.md R54, R58,
spec/40_execution.md R127). -/

namespace Sys2Proof

/-- Whether an r/m operand lies in data memory (R54). -/
def RmOperand.isMem : RmOperand → Bool
  | .reg _ => false
  | .direct _ => true
  | .based _ _ => true

/-- Whether an instruction names a memory operand (R54): only an r/m operand can be one. -/
def Instr.namesMemory : Instr → Bool
  | .movRmReg _ _ rm _ | .addRmReg _ _ rm _ | .subRmReg _ _ rm _ | .cmpRmReg _ _ rm _ => rm.isMem
  | .addRmImm _ _ rm _ | .subRmImm _ _ rm _ | .cmpRmImm _ _ rm _ => rm.isMem
  | .movRegImm _ _ _ | .addAccImm _ _ _ | .subAccImm _ _ _ | .cmpAccImm _ _ _ | .jzRel8 _ => false

end Sys2Proof

namespace Sys2Proof.Machine

theorem resolveRm_congr {s t : State} (h : t.regs = s.regs) (w : Width) (rm : RmOperand) :
    t.resolveRm w rm = s.resolveRm w rm := by
  cases rm <;> simp [State.resolveRm, h]

theorem isMem_of_resolveRm {s : State} {w : Width} {rm : RmOperand} {a : Word} (h : s.resolveRm w rm = .mem a) :
    rm.isMem = true := by
  cases rm with
  | reg n => cases h
  | direct _ => rfl
  | based _ _ => rfl

/-- What the operands of an instruction are like: they depend on the registers alone (R127), at most one of them lies in
memory, and none does unless the instruction names a memory operand (R54). -/
structure OperandsOf (i : Instr) {w : Width} (dst src : State → Operand w) : Prop where
  dst_congr : ∀ {s t : State}, t.regs = s.regs → dst t = dst s
  src_congr : ∀ {s t : State}, t.regs = s.regs → src t = src s
  not_both_mem : ∀ s a b, dst s = .mem a → src s ≠ .mem b
  dst_names : ∀ {s a}, dst s = .mem a → i.namesMemory = true
  src_names : ∀ {s a}, src s = .mem a → i.namesMemory = true

variable {i : Instr} {w : Width}

theorem OperandsOf.not_mem_of_not_namesMemory {dst src : State → Operand w} (ops : OperandsOf i dst src)
    (hi : i.namesMemory = false) (s : State) : (∀ a, dst s ≠ .mem a) ∧ ∀ a, src s ≠ .mem a :=
  ⟨fun _ h => Bool.false_ne_true (hi.symm.trans (ops.dst_names h)), fun _ h =>
    Bool.false_ne_true (hi.symm.trans (ops.src_names h))⟩

/-- The forms of REG_MEM and DEFAULT: one operand is the reg field's (R97). -/
theorem operandsOf_rmReg {rm : RmOperand} (hi : i.namesMemory = rm.isMem) (d : Direction) (reg : RegNum) :
    OperandsOf i (w := w) (·.rmRegDst d w rm reg) (·.rmRegSrc d w rm reg) := by
  cases d with
  | toRm => exact ⟨fun h => resolveRm_congr h w rm, fun _ => rfl, fun _ _ _ _ => nofun,
      fun h => hi.trans (isMem_of_resolveRm h), nofun⟩
  | toReg => exact ⟨fun _ => rfl, fun h => resolveRm_congr h w rm, fun _ _ _ => nofun, nofun,
      fun h => hi.trans (isMem_of_resolveRm h)⟩

theorem operandsOf_rmImm {rm : RmOperand} (hi : i.namesMemory = rm.isMem) (v : w.Val) :
    OperandsOf i (w := w) (·.resolveRm w rm) (fun _ => .imm v) :=
  ⟨fun h => resolveRm_congr h w rm, fun _ => rfl, fun _ _ _ _ => nofun,
    fun h => hi.trans (isMem_of_resolveRm h), nofun⟩

theorem operandsOf_regImm (i : Instr) (n : RegNum) (v : w.Val) :
    OperandsOf i (w := w) (fun _ => .reg n) (fun _ => .imm v) :=
  ⟨fun _ => rfl, fun _ => rfl, fun _ _ _ => nofun, nofun, nofun⟩

/-- The shared rule behind an instruction's meaning, with what its operands are like. -/
inductive OperandRule (i : Instr) : Prop where
  | arith (w : Width) (op : w.Val → w.Val → w.Val) (dst src : State → Operand w) (operands : OperandsOf i dst src)
      (exec_eq : ∀ s, exec i s = .next (s.runArith i op (dst s) (src s)))
  | cmp (w : Width) (dst src : State → Operand w) (operands : OperandsOf i dst src)
      (exec_eq : ∀ s, exec i s = .next (s.runCmp i (dst s) (src s)))
  | mov (w : Width) (dst src : State → Operand w) (operands : OperandsOf i dst src)
      (exec_eq : ∀ s, exec i s = .next (s.runMov i (dst s) (src s)))
  | jz (disp : Byte) (eq : i = .jzRel8 disp)

theorem operandRule (i : Instr) : OperandRule i := by
  cases i with
  | movRmReg d w rm reg => exact .mov w _ _ (operandsOf_rmReg rfl d reg) fun _ => rfl
  | movRegImm w reg imm => exact .mov w _ _ (operandsOf_regImm _ reg (immVal w imm)) fun _ => rfl
  | addRmReg d w rm reg => exact .arith w addN _ _ (operandsOf_rmReg rfl d reg) fun _ => rfl
  | subRmReg d w rm reg => exact .arith w subN _ _ (operandsOf_rmReg rfl d reg) fun _ => rfl
  | cmpRmReg d w rm reg => exact .cmp w _ _ (operandsOf_rmReg rfl d reg) fun _ => rfl
  | addRmImm sx w rm imm => exact .arith w addN _ _ (operandsOf_rmImm rfl (immVal w imm)) fun _ => rfl
  | subRmImm sx w rm imm => exact .arith w subN _ _ (operandsOf_rmImm rfl (immVal w imm)) fun _ => rfl
  | cmpRmImm sx w rm imm => exact .cmp w _ _ (operandsOf_rmImm rfl (immVal w imm)) fun _ => rfl
  | addAccImm x w imm => exact .arith w addN _ _ (operandsOf_regImm _ .r0 (immVal w imm)) fun _ => rfl
  | subAccImm x w imm => exact .arith w subN _ _ (operandsOf_regImm _ .r0 (immVal w imm)) fun _ => rfl
  | cmpAccImm x w imm => exact .cmp w _ _ (operandsOf_regImm _ .r0 (immVal w imm)) fun _ => rfl
  | jzRel8 disp => exact .jz disp rfl

/-! ### The port requests of a step -/

/-- No request, one read, one write, or a read and then a write of the same address and width (R58). -/
def AtMostReadThenWrite (reqs : List PortRequest) : Prop :=
  reqs = [] ∨ ∃ (a : Word) (w : Width) (v : w.Val),
    reqs = [.read a w] ∨ reqs = [.write a (Value.ofVal w v)] ∨ reqs = [.read a w, .write a (Value.ofVal w v)]

theorem readRequests_of_not_mem {o : Operand w} (h : ∀ a, o ≠ .mem a) : readRequests o = [] := by
  cases o with
  | mem a => exact absurd rfl (h a)
  | reg _ => rfl
  | imm _ => rfl

theorem writeRequests_of_not_mem {o : Operand w} (h : ∀ a, o ≠ .mem a) (v : w.Val) :
    writeRequests v o = [] := by
  cases o with
  | mem a => exact absurd rfl (h a)
  | reg _ => rfl
  | imm _ => rfl

theorem atMostReadThenWrite_read (o : Operand w) : AtMostReadThenWrite (readRequests o) := by
  cases o with
  | mem a => exact .inr ⟨a, w, 0, .inl rfl⟩
  | reg _ => exact .inl rfl
  | imm _ => exact .inl rfl

theorem atMostReadThenWrite_write (o : Operand w) (v : w.Val) : AtMostReadThenWrite (writeRequests v o) := by
  cases o with
  | mem a => exact .inr ⟨a, w, v, .inr (.inl rfl)⟩
  | reg _ => exact .inl rfl
  | imm _ => exact .inl rfl

theorem atMostReadThenWrite_readWrite (o : Operand w) (v : w.Val) :
    AtMostReadThenWrite (readRequests o ++ writeRequests v o) := by
  cases o with
  | mem a => exact .inr ⟨a, w, v, .inr (.inr rfl)⟩
  | reg _ => exact .inl rfl
  | imm _ => exact .inl rfl

/-- Of two operands that are not both in memory, one makes no request. -/
theorem not_mem_or_not_mem {dst src : Operand w} (h : ∀ a b, dst = .mem a → src ≠ .mem b) :
    (∀ a, dst ≠ .mem a) ∨ ∀ b, src ≠ .mem b := by
  by_cases hd : ∃ a, dst = .mem a
  · obtain ⟨a, ha⟩ := hd
    exact .inr fun b => h a b ha
  · exact .inl fun a ha => hd ⟨a, ha⟩

section
variable (s : State) (i : Instr) (dst src : Operand w)

theorem runArith_port (op : w.Val → w.Val → w.Val) :
    ∃ r, (s.runArith i op dst src).port = s.port ++ (readRequests dst ++ readRequests src ++ writeRequests r dst) :=
  ⟨op ((s.advance i.length).readOp dst).1 (((s.advance i.length).readOp dst).2.readOp src).1, by simp [State.runArith]⟩

theorem runCmp_port : (s.runCmp i dst src).port = s.port ++ (readRequests dst ++ readRequests src) := by
  simp [State.runCmp]

theorem runMov_port : ∃ v, (s.runMov i dst src).port = s.port ++ (readRequests src ++ writeRequests v dst) :=
  ⟨(((s.advance i.length).observeOp dst).2.readOp src).1, by simp [State.runMov]⟩

end

/-- An instruction issues at most one read and then one write (R58). -/
theorem exec_port {s t : State} (h : exec i s = .next t) :
    ∃ reqs, t.port = s.port ++ reqs ∧ AtMostReadThenWrite reqs := by
  cases operandRule i with
  | arith w op dst src ops hexec =>
    cases (hexec s).symm.trans h
    obtain ⟨r, hport⟩ := runArith_port s i (dst s) (src s) op
    refine ⟨_, hport, ?_⟩
    obtain hd | hs := not_mem_or_not_mem (ops.not_both_mem s)
    · simpa [readRequests_of_not_mem hd, writeRequests_of_not_mem hd] using atMostReadThenWrite_read (src s)
    · simpa [readRequests_of_not_mem hs] using atMostReadThenWrite_readWrite (dst s) r
  | cmp w dst src ops hexec =>
    cases (hexec s).symm.trans h
    refine ⟨_, runCmp_port s i (dst s) (src s), ?_⟩
    obtain hd | hs := not_mem_or_not_mem (ops.not_both_mem s)
    · simpa [readRequests_of_not_mem hd] using atMostReadThenWrite_read (src s)
    · simpa [readRequests_of_not_mem hs] using atMostReadThenWrite_read (dst s)
  | mov w dst src ops hexec =>
    cases (hexec s).symm.trans h
    obtain ⟨v, hport⟩ := runMov_port s i (dst s) (src s)
    refine ⟨_, hport, ?_⟩
    obtain hd | hs := not_mem_or_not_mem (ops.not_both_mem s)
    · simpa [writeRequests_of_not_mem hd] using atMostReadThenWrite_read (src s)
    · simpa [readRequests_of_not_mem hs] using atMostReadThenWrite_write (dst s) v
  | jz disp hi =>
    subst hi
    cases h
    exact ⟨[], by simp, .inl rfl⟩

/-! ### Instructions without a memory operand -/

theorem readOp_state_of_not_mem (s : State) {o : Operand w} (h : ∀ a, o ≠ .mem a) : (s.readOp o).2 = s := by
  cases o with
  | mem a => exact absurd rfl (h a)
  | reg _ => rfl
  | imm _ => rfl

theorem observeOp_state_of_not_mem (s : State) {o : Operand w} (h : ∀ a, o ≠ .mem a) : (s.observeOp o).2 = s := by
  cases o with
  | mem a => exact absurd rfl (h a)
  | reg _ => rfl
  | imm _ => rfl

theorem writeOp_mem_of_not_mem (s : State) {o : Operand w} (h : ∀ a, o ≠ .mem a) (v : w.Val) :
    (s.writeOp o v).mem = s.mem := by
  cases o with
  | mem a => exact absurd rfl (h a)
  | reg n => exact writeReg_mem s w n v
  | imm _ => rfl

/-- An instruction that names no memory operand makes no access to data memory (R54). -/
theorem exec_of_not_namesMemory {s t : State} (h : exec i s = .next t) (hi : i.namesMemory = false) :
    t.port = s.port ∧ t.mem = s.mem ∧ t.draws = s.draws := by
  cases operandRule i with
  | arith w op dst src ops hexec =>
    cases (hexec s).symm.trans h
    obtain ⟨hd, hs⟩ := ops.not_mem_of_not_namesMemory hi s
    simp [State.runArith, readOp_state_of_not_mem _ hd, readOp_state_of_not_mem _ hs, writeOp_mem_of_not_mem _ hd,
      writeRequests_of_not_mem hd]
  | cmp w dst src ops hexec =>
    cases (hexec s).symm.trans h
    obtain ⟨hd, hs⟩ := ops.not_mem_of_not_namesMemory hi s
    simp [State.runCmp, readOp_state_of_not_mem _ hd, readOp_state_of_not_mem _ hs]
  | mov w dst src ops hexec =>
    cases (hexec s).symm.trans h
    obtain ⟨hd, hs⟩ := ops.not_mem_of_not_namesMemory hi s
    simp [State.runMov, observeOp_state_of_not_mem _ hd, readOp_state_of_not_mem _ hs, writeOp_mem_of_not_mem _ hd,
      writeRequests_of_not_mem hd]
  | jz disp hj =>
    subst hj
    cases h
    simp

end Sys2Proof.Machine

namespace Sys2Proof.Proofs
open Sys2Proof.Machine

/-- Settles O38: of an instruction's two operands one at most is in memory, and a halt or a fault issues no request. -/
theorem atMostOneReadThenOneWrite : Obligations.AtMostOneReadThenOneWrite := by
  intro s t h
  obtain ⟨_, rfl⟩ | ⟨i, _, hexec⟩ := step_status_or_exec h
  · exact ⟨[], (List.append_nil _).symm, .inl rfl⟩
  · exact exec_port hexec

/-- Settles O39: none of the register forms names a memory operand. -/
theorem registerFormsNeverAccessMemory : Obligations.RegisterFormsNeverAccessMemory := by
  intro i s t h hform
  refine exec_of_not_namesMemory h ?_
  obtain ⟨w, reg, imm, rfl⟩ | ⟨x, w, imm, rfl⟩ | ⟨x, w, imm, rfl⟩ | ⟨x, w, imm, rfl⟩ | ⟨disp, rfl⟩ |
    ⟨d, w, n, reg, rfl | rfl | rfl | rfl⟩ | ⟨sx, w, n, imm, rfl | rfl | rfl⟩ := hform <;> rfl

end Sys2Proof.Proofs
end

section
/-! Another memory field under INERT changes nothing that a step does (spec/20_memory.md R55, R56). -/

namespace Sys2Proof.Machine

/-- `s` with another memory field. -/
def State.withMem (s : State) (m : Memory) : State := { s with mem := m }

variable (s : State) (m : Memory)

@[simp] theorem withMem_regs : (s.withMem m).regs = s.regs := rfl
@[simp] theorem withMem_ip : (s.withMem m).ip = s.ip := rfl
@[simp] theorem withMem_cfg : (s.withMem m).cfg = s.cfg := rfl
@[simp] theorem withMem_zf : (s.withMem m).zf = s.zf := rfl
@[simp] theorem fetch_withMem : (s.withMem m).fetch = s.fetch := rfl
@[simp] theorem halt_withMem : (s.withMem m).halt = s.halt.withMem m := rfl
@[simp] theorem raise_withMem (k : FaultKind) (a : Word) (n : Nat) :
    (s.withMem m).raise k a n = (s.raise k a n).withMem m := rfl
@[simp] theorem emit_withMem (r : TraceRecord) : (s.withMem m).emit r = (s.emit r).withMem m := rfl
@[simp] theorem record_withMem (i : Instr) (pre post : Value) :
    (s.withMem m).record i pre post = s.record i pre post := rfl
@[simp] theorem setFlags_withMem (w : Width) (r : w.Val) :
    (s.withMem m).setFlags w r = (s.setFlags w r).withMem m := rfl

@[simp] theorem setFlagsMov_withMem (w : Width) (r : w.Val) :
    (s.withMem m).setFlagsMov w r = (s.setFlagsMov w r).withMem m := by
  unfold State.setFlagsMov
  rw [withMem_cfg]
  split <;> rfl

@[simp] theorem advance_withMem (len : Nat) : (s.withMem m).advance len = (s.advance len).withMem m := by
  unfold State.advance
  rw [withMem_cfg]
  split <;> rfl

@[simp] theorem jumpIfZero_withMem (disp : Byte) : (s.withMem m).jumpIfZero disp = (s.jumpIfZero disp).withMem m := by
  unfold State.jumpIfZero
  rw [withMem_zf]
  split <;> rfl

variable {s}

@[simp] theorem memRead_withMem (h : s.cfg.memoryModel = .inert) (w : Width) (a : Word) :
    (s.withMem m).memRead w a = ((s.memRead w a).1, (s.memRead w a).2.withMem m) := by
  rw [State.memRead, State.memRead, withMem_cfg, h]
  rfl

@[simp] theorem memObserve_withMem (h : s.cfg.memoryModel = .inert) (w : Width) (a : Word) :
    (s.withMem m).memObserve w a = ((s.memObserve w a).1, (s.memObserve w a).2.withMem m) := by
  rw [State.memObserve, State.memObserve, withMem_cfg, h]
  rfl

@[simp] theorem memWrite_withMem (h : s.cfg.memoryModel = .inert) (w : Width) (a : Word) (v : w.Val) :
    (s.withMem m).memWrite w a v = (s.memWrite w a v).withMem m := by
  rw [State.memWrite, State.memWrite, withMem_cfg, h]
  rfl

@[simp] theorem readOp_withMem (h : s.cfg.memoryModel = .inert) {w : Width} (o : Operand w) :
    (s.withMem m).readOp o = ((s.readOp o).1, (s.readOp o).2.withMem m) := by
  cases o with
  | reg n => rfl
  | mem a => exact memRead_withMem m h w a
  | imm v => rfl

@[simp] theorem observeOp_withMem (h : s.cfg.memoryModel = .inert) {w : Width} (o : Operand w) :
    (s.withMem m).observeOp o = ((s.observeOp o).1, (s.observeOp o).2.withMem m) := by
  cases o with
  | reg n => rfl
  | mem a => exact memObserve_withMem m h w a
  | imm v => rfl

@[simp] theorem writeOp_withMem (h : s.cfg.memoryModel = .inert) {w : Width} (o : Operand w) (v : w.Val) :
    (s.withMem m).writeOp o v = (s.writeOp o v).withMem m := by
  cases o with
  | reg n => cases w <;> rfl
  | mem a => exact memWrite_withMem m h w a v
  | imm x => rfl

/-- Under INERT an instruction does the same with any memory field. -/
theorem exec_withMem {t : State} {i : Instr} (hm : s.cfg.memoryModel = .inert) (h : exec i s = .next t) :
    exec i (s.withMem m) = .next (t.withMem m) := by
  cases operandRule i with
  | arith w op dst src ops hexec =>
    cases (hexec s).symm.trans h
    rw [hexec, ops.dst_congr (withMem_regs s m), ops.src_congr (withMem_regs s m)]
    simp [State.runArith, hm]
  | cmp w dst src ops hexec =>
    cases (hexec s).symm.trans h
    rw [hexec, ops.dst_congr (withMem_regs s m), ops.src_congr (withMem_regs s m)]
    simp [State.runCmp, hm]
  | mov w dst src ops hexec =>
    cases (hexec s).symm.trans h
    rw [hexec, ops.dst_congr (withMem_regs s m), ops.src_congr (withMem_regs s m)]
    simp [State.runMov, hm]
  | jz disp hi =>
    subst hi
    cases h
    simp [exec, execJzRel8]

theorem step_withMem {t : State} (hm : s.cfg.memoryModel = .inert) (h : step s = .next t) :
    step (s.withMem m) = .next (t.withMem m) := by
  obtain ⟨hf, rfl⟩ | ⟨kind, here, examined, hf, rfl⟩ | ⟨i, hf, hexec⟩ := step_cases h
  · simp [step, hf]
  · simp [step, hf]
  · rw [step, fetch_withMem, hf]
    exact exec_withMem m hm hexec

end Sys2Proof.Machine

namespace Sys2Proof.Proofs
open Sys2Proof.Machine

/-- Settles O37: every access of a step under INERT passes over the memory field. -/
theorem inertMemoryIsNeverRead : Obligations.InertMemoryIsNeverRead := fun _ _ m hm h =>
  ⟨step_withMem m hm h, step_mem_inert h hm⟩

end Sys2Proof.Proofs
end

section
/-! The launch parameters that a launch refuses, and the classifier's answer to its own `JZ_OPCODE`
(spec/30_encoding.md R71, R72, spec/20_memory.md R50). -/

namespace Sys2Proof

/-- The bytes that a predicate before the short jump's hides: the six ranges of R72. -/
def HiddenRange (n : Nat) : Prop :=
  (0x04 ≤ n ∧ n ≤ 0x07) ∨ (0x2C ≤ n ∧ n ≤ 0x2F) ∨ (0x3C ≤ n ∧ n ≤ 0x3F) ∨
    (0x80 ≤ n ∧ n ≤ 0x83) ∨ (0x88 ≤ n ∧ n ≤ 0x8B) ∨ (0xB0 ≤ n ∧ n ≤ 0xBF)

theorem jzOpcodeAllowed_iff (jz : Byte) : jzOpcodeAllowed jz = true ↔ ¬ HiddenRange jz.toNat := by
  unfold HiddenRange
  revert jz; decide

/-- An allowed `JZ_OPCODE` is classified as the short jump's, and no other one is (R72). -/
theorem jzOpcodeAllowed_iff_classify (jz : Byte) : jzOpcodeAllowed jz = true ↔ classify jz jz = .shortJump := by
  revert jz; decide

end Sys2Proof

namespace Sys2Proof.Machine

variable {cfg : LaunchConfig} {code : List Byte} (img : List Byte)

/-- A launch with a hidden `JZ_OPCODE` is refused for it, however long its stream (R72; log entry 10). -/
theorem State.launch_of_not_jzOpcodeAllowed (h : ¬ jzOpcodeAllowed cfg.jzOpcode = true) :
    State.launch cfg code img = .refused (.jzOpcodeHidden cfg.jzOpcode) := by
  have hp : (State.launched cfg code img).launchProblem = some (.jzOpcodeHidden cfg.jzOpcode) := if_neg h
  rw [State.launch, hp]

/-- A launch with an allowed `JZ_OPCODE` and a stream beyond u16 offsets is refused for its length (R50). -/
theorem State.launch_of_too_long (h : jzOpcodeAllowed cfg.jzOpcode = true) (hlen : 0xFFFF < code.length) :
    State.launch cfg code img = .refused (.streamTooLong code.length) := by
  have hp : (State.launched cfg code img).launchProblem = some (.streamTooLong code.length) :=
    (if_pos h).trans (if_neg (Nat.not_le.mpr hlen))
  rw [State.launch, hp]

end Sys2Proof.Machine

namespace Sys2Proof.Proofs
open Sys2Proof.Machine

/-- Settles O3: the six ranges are the bytes that a launch may not use as its `JZ_OPCODE`, and the length is looked at
after them. -/
theorem launchRefusedOutsideParameters : Obligations.LaunchRefusedOutsideParameters := by
  intro cfg code img
  have hallowed := jzOpcodeAllowed_iff cfg.jzOpcode
  refine ⟨fun hin => ?_, fun hout hlen => ?_, fun hout hlen => ?_⟩
  · exact State.launch_of_not_jzOpcodeAllowed img fun h => hallowed.mp h hin
  · exact State.launch_of_too_long img (hallowed.mpr hout) hlen
  · exact ⟨_, State.launch_of_launchProblem_eq_none
      ((State.launchProblem_eq_none_iff _).mpr ⟨hallowed.mpr hout, hlen⟩)⟩

/-- Settles O4: the classifier, run with each byte as its own `JZ_OPCODE`. -/
theorem jzOpcodeAllowedWhenNotHidden : Obligations.JzOpcodeAllowedWhenNotHidden := jzOpcodeAllowed_iff_classify

end Sys2Proof.Proofs
end

section
/-! The values and texts of encoded operands: effective addresses and immediates (spec/30_encoding.md R90 to R94, R109). -/

namespace Sys2Proof.Machine

/-- A sum modulo 2^16 with its second term read as signed (R92). -/
theorem toNat_add_eq_add_toInt_emod (x y : Word) : ((x + y).toNat : Int) = ((x.toNat : Int) + y.toInt) % 65536 := by
  rw [BitVec.toNat_add, BitVec.toInt_eq_toNat_cond]
  split <;> omega

@[simp] theorem toInt_sext16 (v : Byte) : (sext16 v).toInt = v.toInt :=
  BitVec.toInt_signExtend_of_le (by decide)

/-- The addend of a displacement is its signed value (R93). -/
@[simp] theorem toInt_addend (disp : Disp) : (Disp.addend disp).toInt = dispValue disp := by
  cases disp with
  | none => rfl
  | d8 v => exact toInt_sext16 v
  | d16 v => rfl

/-- An operand with a base lies at any number that its registers sum to, plus the signed displacement, modulo 2^16. -/
theorem resolveRm_based_of_base (s : State) (w : Width) (b : EaBase) (disp : Disp) {sum : Nat}
    (hsum : (s.regs.base b).toNat = sum % 65536) :
    ∃ a : Word, s.resolveRm w (.based b disp) = .mem a ∧ (a.toNat : Int) = ((sum : Int) + dispValue disp) % 65536 := by
  refine ⟨s.regs.ea b disp, rfl, ?_⟩
  rw [Regs.ea, toNat_add_eq_add_toInt_emod, toInt_addend, hsum]
  omega

/-- The text of a two's-complement reading: a minus sign and the magnitude if the top bit is set (R109). -/
theorem intText_toInt {n : Nat} (v : BitVec n) :
    intText v.toInt = if 2 ^ n ≤ 2 * v.toNat then "-" ++ toString (2 ^ n - v.toNat) else toString v.toNat := by
  have hlt : v.toNat < 2 ^ n := v.isLt
  rw [intText, BitVec.toInt_eq_toNat_cond]
  by_cases h : 2 * v.toNat < 2 ^ n
  · rw [if_pos h, if_neg (by omega), if_neg (by omega), Int.natAbs_natCast]
  · have habs : ((v.toNat : Int) - (2 ^ n : Nat)).natAbs = 2 ^ n - v.toNat := by omega
    rw [if_neg h, if_pos (by omega), if_pos (by omega), habs]

end Sys2Proof.Machine

namespace Sys2Proof.Proofs
open Sys2Proof.Machine

/-- Settles O12: each base of the table sums its registers, and a register or direct form has no address to sum. -/
theorem effectiveAddressTable : Obligations.EffectiveAddressTable := by
  intro s w disp
  have pair (b : EaBase) (x y : Word) (h : s.regs.base b = x + y) :=
    resolveRm_based_of_base s w b disp (sum := x.toNat + y.toNat) (by rw [h, BitVec.toNat_add])
  have single (b : EaBase) (x : Word) (h : s.regs.base b = x) :=
    resolveRm_based_of_base s w b disp (sum := x.toNat) (by rw [h, Nat.mod_eq_of_lt x.isLt])
  exact ⟨pair _ _ _ rfl, pair _ _ _ rfl, pair _ _ _ rfl, pair _ _ _ rfl, single _ _ rfl, single _ _ rfl, single _ _ rfl,
    single _ _ rfl, fun _ => rfl, fun _ => rfl⟩

/-- Settles O13: both widths are the general two's-complement text. -/
theorem negativeImmediatesShowAMinus : Obligations.NegativeImmediatesShowAMinus := by
  refine ⟨fun v => ?_, fun v => ?_⟩
  · exact (intText_toInt v).trans (if_congr (by omega) rfl rfl)
  · exact (intText_toInt v).trans (if_congr (by omega) rfl rfl)

/-- Settles O8: sign extension keeps the signed value, and the other forms are taken as they stand. -/
theorem immediateAtDestinationWidth : Obligations.ImmediateAtDestinationWidth :=
  ⟨toInt_sext16, fun _ => rfl, fun _ => rfl⟩

end Sys2Proof.Proofs
end

section
/-! The decoder said once (spec/30_encoding.md R71, R83, R103, R105): which pattern the classifier gives, the inverse of
each operation table, and when bytes decode to an instruction. -/

namespace Sys2Proof

/-! ### The classifier -/

theorem highBits_eq_selector (b0 : Byte) : b0.extractLsb' 4 4 = (selector b0).extractLsb' 2 4 := by
  revert b0; decide

/-- The predicate behind each pattern that the classifier gives (R71). -/
theorem classify_cases (jz b0 : Byte) :
    (classify jz b0 = .immToReg ∧ b0.extractLsb' 4 4 = 0b1011#4) ∨
    (classify jz b0 = .regMem ∧ selector b0 = 0b100010#6) ∨
    (classify jz b0 = .immToRm ∧ selector b0 = 0b100000#6) ∨
    classify jz b0 = .immToAcc ∨
    (classify jz b0 = .shortJump ∧ b0 = jz) ∨
    (classify jz b0 = .default ∧ b0 ≠ jz) := by
  unfold classify
  split_ifs <;> simp [*]

variable {jz b0 : Byte}

theorem classify_of_highBits (h : b0.extractLsb' 4 4 = 0b1011#4) : classify jz b0 = .immToReg := if_pos h

theorem classify_of_selector_regMem (h : selector b0 = 0b100010#6) : classify jz b0 = .regMem := by
  simp [classify, highBits_eq_selector, h]

theorem classify_of_selector_immToRm (h : selector b0 = 0b100000#6) : classify jz b0 = .immToRm := by
  simp [classify, highBits_eq_selector, h]

/-! ### The operation tables -/

/-- The op6 of an operation in DEFAULT (R83). -/
def AluOp.defaultCode : AluOp → BitVec 6
  | .add => 0b000000#6
  | .sub => 0b001010#6
  | .cmp => 0b001110#6

/-- The op6 of an operation in IMM_TO_ACC (R83). -/
def AluOp.accCode : AluOp → BitVec 6
  | .add => 0b000001#6
  | .sub => 0b001011#6
  | .cmp => 0b001111#6

/-- The op3 of an operation in IMM_TO_RM (R83). -/
def AluOp.immCode : AluOp → BitVec 3
  | .add => 0b000#3
  | .sub => 0b101#3
  | .cmp => 0b111#3

theorem defaultOp_eq_some_iff {c : BitVec 6} {op : AluOp} : defaultOp c = some op ↔ c = op.defaultCode := by
  cases op <;> revert c <;> decide

theorem accOp_eq_some_iff {c : BitVec 6} {op : AluOp} : accOp c = some op ↔ c = op.accCode := by
  cases op <;> revert c <;> decide

theorem immOp_eq_some_iff {c : BitVec 3} {op : AluOp} : immOp c = some op ↔ c = op.immCode := by
  cases op <;> revert c <;> decide

theorem classify_of_selector_accCode {op : AluOp} (h : selector b0 = op.accCode) : classify jz b0 = .immToAcc := by
  cases op <;> simp [classify, highBits_eq_selector, h, AluOp.accCode]

theorem classify_of_selector_defaultCode {op : AluOp} (h : selector b0 = op.defaultCode) (hjz : b0 ≠ jz) :
    classify jz b0 = .default := by
  cases op <;> simp [classify, highBits_eq_selector, h, hjz, AluOp.defaultCode]

/-! ### When bytes decode -/

@[simp] theorem byteAt_cons_zero (b : Byte) (bs : List Byte) : byteAt (b :: bs) 0 = b := rfl

@[simp] theorem byteAt_cons_succ (b : Byte) (bs : List Byte) (k : Nat) : byteAt (b :: bs) (k + 1) = byteAt bs k := rfl

/-- The fields of the header at the front of some bytes, as `decode` takes them (R103). -/
def headerOf (jz : Byte) (bs : List Byte) : Fields :=
  fieldsOf (classify jz (byteAt bs 0)) (byteAt bs 0) (byteAt bs 1)

/-- The instruction that `decode` assembles from the front of some bytes, their length unchecked. -/
def assembleAt (jz : Byte) (bs : List Byte) : Option Instr :=
  assemble (headerOf jz bs) (ignoredBit (byteAt bs 0)) (bs.drop (headerLen (classify jz (byteAt bs 0))))

theorem headerLen_le_len (p : Pattern) (b0 b1 : Byte) : headerLen p ≤ (fieldsOf p b0 b1).len := by
  cases p <;> simp only [headerLen, fieldsOf, Fields.len] <;> omega

theorem headerLen_ne_zero (p : Pattern) : headerLen p ≠ 0 := by
  cases p <;> decide

theorem not_le_selector_toNat (b0 : Byte) : ¬ 64 ≤ (selector b0).toNat := Nat.not_le.mpr (selector b0).isLt

/-- Where an instruction is assembled, the operation tables have an entry (R83). -/
theorem operation_of_assemble {b1 : Byte} {x : BitVec 1} {tr : List Byte} {i : Instr}
    (h : assemble (fieldsOf (classify jz b0) b0 b1) x tr = some i) :
    noDefaultOp jz b0 = false ∧ noImmOp (classify jz b0) b1 = false := by
  unfold noDefaultOp noImmOp
  generalize classify jz b0 = p at h ⊢
  cases p with
  | immToRm | default =>
    obtain ⟨op, hop, -⟩ := Option.map_eq_some_iff.mp h
    simp [hop]
  | _ => exact ⟨rfl, rfl⟩

theorem decodeFields_eq_ok_iff {f : Fields} {x : BitVec 1} {n : Nat} {bs rest : List Byte} {i : Instr} :
    decodeFields f x n bs = .ok (i, rest) ↔
      f.len ≤ bs.length ∧ assemble f x (bs.drop n) = some i ∧ rest = bs.drop f.len := by
  unfold decodeFields
  split_ifs with hlen
  · simp [hlen]
  · cases assemble f x (bs.drop n) <;> simp [Nat.not_lt.mp hlen, eq_comm]

theorem Width.bytes_bounds (w : Width) : 1 ≤ w.bytes ∧ w.bytes ≤ 2 := by
  cases w <;> decide

theorem rmImmLen_bounds (s : Bool) (w : Width) : 1 ≤ rmImmLen s w ∧ rmImmLen s w ≤ 2 := by
  cases s <;> cases w <;> decide

theorem RmOperand.dispLen_le_two (rm : RmOperand) : rm.dispLen ≤ 2 := by
  rcases rm with n | a | ⟨b, _ | v | v⟩ <;> simp [RmOperand.dispLen]

/-- Every instruction has 2 to 6 bytes (R101). -/
theorem Instr.length_bounds (i : Instr) : 2 ≤ i.length ∧ i.length ≤ 6 := by
  cases i with
  | movRmReg _ _ rm _ | addRmReg _ _ rm _ | subRmReg _ _ rm _ | cmpRmReg _ _ rm _ =>
    have := rm.dispLen_le_two
    simp only [Instr.length]
    omega
  | addRmImm s w rm _ | subRmImm s w rm _ | cmpRmImm s w rm _ =>
    have := rm.dispLen_le_two
    have := rmImmLen_bounds s w
    simp only [Instr.length]
    omega
  | movRegImm w _ _ | addAccImm _ w _ | subAccImm _ w _ | cmpAccImm _ w _ => cases w <;> simp [Instr.length, Width.bytes]
  | jzRel8 _ => simp [Instr.length]

/-- Bytes decode exactly if their header's fields assemble to an instruction and all its bytes are there (R102, R103). -/
theorem decode_eq_ok_iff {bs rest : List Byte} {i : Instr} :
    decode jz bs = .ok (i, rest) ↔
      assembleAt jz bs = some i ∧ i.length ≤ bs.length ∧ rest = bs.drop i.length := by
  cases bs with
  | nil => exact ⟨nofun, fun ⟨_, hlen, _⟩ => absurd (i.length_bounds.1.trans hlen) (by simp)⟩
  | cons b0 tl =>
    simp only [decode, not_le_selector_toNat, headerLen_ne_zero, if_false]
    constructor
    · intro h
      split_ifs at h
      obtain ⟨hlen, hasm, hrest⟩ := decodeFields_eq_ok_iff.mp h
      rw [Instr.length_of_assemble hasm]
      exact ⟨hasm, hlen, hrest⟩
    · rintro ⟨hasm, hlen, hrest⟩
      obtain ⟨hdefault, himm⟩ := operation_of_assemble (b0 := b0) (b1 := byteAt tl 0) hasm
      have hheader := headerLen_le_len (classify jz b0) b0 (byteAt tl 0)
      rw [Instr.length_of_assemble hasm] at hlen hrest
      rw [hdefault, if_neg Bool.false_ne_true, if_neg (Nat.not_lt.mpr (hheader.trans hlen)), himm,
        if_neg Bool.false_ne_true]
      exact decodeFields_eq_ok_iff.mpr ⟨hlen, hasm, hrest⟩

end Sys2Proof
end

section
/-! From an instruction to its bytes and back (spec/30_encoding.md R80, R83, R90, R94): what the decoder assembles from an
encoding. -/

namespace Sys2Proof

/-! ### The encoder over an operation -/

section
variable (jz : Byte) (op : AluOp)

@[simp] theorem encode_rmRegInstr (d : Direction) (w : Width) (rm : RmOperand) (reg : RegNum) :
    encode jz (rmRegInstr op d w rm reg) = encRmReg op.defaultCode d w rm reg := by cases op <;> rfl

@[simp] theorem encode_rmImmInstr (s : Bool) (w : Width) (rm : RmOperand) (imm : Imm) :
    encode jz (rmImmInstr op s w rm imm) = encRmImm op.immCode s w rm imm := by cases op <;> rfl

@[simp] theorem encode_accImmInstr (x : Bool) (w : Width) (imm : Imm) :
    encode jz (accImmInstr op x w imm) = encAccImm op.accCode x w imm := by cases op <;> rfl

@[simp] theorem wf_rmRegInstr (d : Direction) (w : Width) (rm : RmOperand) (reg : RegNum) :
    (rmRegInstr op d w rm reg).wf = rm.wf := by cases op <;> rfl

@[simp] theorem wf_rmImmInstr (s : Bool) (w : Width) (rm : RmOperand) (imm : Imm) :
    (rmImmInstr op s w rm imm).wf = (rm.wf && imm.fitsRm s w) := by cases op <;> rfl

@[simp] theorem wf_accImmInstr (x : Bool) (w : Width) (imm : Imm) :
    (accImmInstr op x w imm).wf = imm.hasWidth w := by cases op <;> rfl

@[simp] theorem hiddenBy_rmRegInstr (d : Direction) (w : Width) (rm : RmOperand) (reg : RegNum) :
    (rmRegInstr op d w rm reg).hiddenBy jz = (opcodeByte op.defaultCode d.bit w == jz) := by cases op <;> rfl

@[simp] theorem hiddenBy_rmImmInstr (s : Bool) (w : Width) (rm : RmOperand) (imm : Imm) :
    (rmImmInstr op s w rm imm).hiddenBy jz = false := by cases op <;> rfl

@[simp] theorem hiddenBy_accImmInstr (x : Bool) (w : Width) (imm : Imm) :
    (accImmInstr op x w imm).hiddenBy jz = false := by cases op <;> rfl

end

/-- The encoder writes as many bytes as the instruction's length (R100). -/
theorem length_encode (jz : Byte) {i : Instr} (h : i.wf = true) : (encode jz i).length = i.length := by
  cases i with
  | movRmReg d w rm reg => exact Laws.EncodedLength.movRmReg d w rm reg jz h
  | movRegImm w reg imm => exact Laws.EncodedLength.movRegImm w reg imm jz h
  | addRmReg d w rm reg => exact Laws.EncodedLength.addRmReg d w rm reg jz h
  | subRmReg d w rm reg => exact Laws.EncodedLength.subRmReg d w rm reg jz h
  | cmpRmReg d w rm reg => exact Laws.EncodedLength.cmpRmReg d w rm reg jz h
  | addRmImm s w rm imm => exact Laws.EncodedLength.addRmImm s w rm imm jz h
  | subRmImm s w rm imm => exact Laws.EncodedLength.subRmImm s w rm imm jz h
  | cmpRmImm s w rm imm => exact Laws.EncodedLength.cmpRmImm s w rm imm jz h
  | addAccImm x w imm => exact Laws.EncodedLength.addAccImm x w imm jz h
  | subAccImm x w imm => exact Laws.EncodedLength.subAccImm x w imm jz h
  | cmpAccImm x w imm => exact Laws.EncodedLength.cmpAccImm x w imm jz h
  | jzRel8 disp => exact Laws.EncodedLength.jzRel8 disp jz h

/-! ### Assembling from a header and the bytes after it -/

theorem assembleAt_of_headerLen_one {jz b0 : Byte} {p : Pattern} (hp : classify jz b0 = p) (h : headerLen p = 1)
    (tr : List Byte) :
    assembleAt jz (b0 :: tr) = assemble (fieldsOf p b0 (byteAt tr 0)) (ignoredBit b0) tr := by
  simp [assembleAt, headerOf, hp, h]

theorem assembleAt_of_headerLen_two {jz b0 : Byte} {p : Pattern} (hp : classify jz b0 = p) (h : headerLen p = 2)
    (b1 : Byte) (tr : List Byte) :
    assembleAt jz (b0 :: b1 :: tr) = assemble (fieldsOf p b0 b1) (ignoredBit b0) tr := by
  simp [assembleAt, headerOf, hp, h]

/-! ### The fields of encoded bytes -/

/-- The fields of byte 1 are those it is made of (R80). -/
theorem fields_modRmByte (rm : RmOperand) (mid : BitVec 3) :
    (modRmByte rm mid).extractLsb' 6 2 = rm.modBits ∧ (modRmByte rm mid).extractLsb' 3 3 = mid ∧
      (modRmByte rm mid).extractLsb' 0 3 = rm.rmBits :=
  ⟨modBits_append _ _ _, regBits_append _ _ _, rmBits_append _ _ _⟩

/-- mod and rm of a well-formed operand announce its displacement (R90, R100). -/
theorem dispLen_modBits_rmBits {rm : RmOperand} (h : rm.wf = true) : dispLen rm.modBits rm.rmBits = rm.dispLen := by
  rw [← RmOperand.dispLen_rmOf rm.modBits rm.rmBits (rm.dispBytes ++ []), rmOf_encoded rm [] h]

theorem immOf_append (n : Nat) (as bs : List Byte) : immOf n (as ++ bs) as.length = immOf n bs 0 := by
  simp [immOf, wordAt, byteAt, List.getD_eq_getElem?_getD, List.getElem?_append_right]

/-- The immediate read from its own bytes is itself (R94). -/
theorem immOf_encBytes (imm : Imm) (rest : List Byte) : immOf imm.encBytes.length (imm.encBytes ++ rest) 0 = imm := by
  cases imm with
  | imm8 v => rfl
  | imm16 v => exact congrArg Imm.imm16 (wordAt_wordBytes v rest)

theorem immOf_bytes_encBytes {imm : Imm} {w : Width} (h : imm.hasWidth w = true) (rest : List Byte) :
    immOf w.bytes (imm.encBytes ++ rest) 0 = imm := by
  rw [← Laws.EncodedLength.immBytes_hasWidth imm w h, immOf_encBytes]

/-! ### What an encoding assembles to -/

variable {jz : Byte}

theorem assembleAt_encRmReg_regMem {rm : RmOperand} (hrm : rm.wf = true) (d : Direction) (w : Width) (reg : RegNum)
    (rest : List Byte) :
    assembleAt jz (encRmReg 0b100010#6 d w rm reg ++ rest) = some (.movRmReg d w rm reg) := by
  obtain ⟨hmod, hreg, hrmBits⟩ := fields_modRmByte rm reg.toBits
  have hp : classify jz (opcodeByte 0b100010#6 d.bit w) = .regMem :=
    classify_of_selector_regMem (selector_opcodeByte _ _ _)
  simp [encRmReg, assembleAt_of_headerLen_two hp rfl, fieldsOf, assemble, dBit_opcodeByte, wBit_opcodeByte, hmod, hreg,
    hrmBits, rmOf_encoded rm rest hrm]

theorem assembleAt_encRmReg_default {op : AluOp} {rm : RmOperand} {d : Direction} {w : Width} (hrm : rm.wf = true)
    (hjz : opcodeByte op.defaultCode d.bit w ≠ jz) (reg : RegNum) (rest : List Byte) :
    assembleAt jz (encRmReg op.defaultCode d w rm reg ++ rest) = some (rmRegInstr op d w rm reg) := by
  obtain ⟨hmod, hreg, hrmBits⟩ := fields_modRmByte rm reg.toBits
  have hsel := selector_opcodeByte op.defaultCode d.bit w
  have hp := classify_of_selector_defaultCode hsel hjz
  simp [encRmReg, assembleAt_of_headerLen_two hp rfl, fieldsOf, assemble, hsel, dBit_opcodeByte, wBit_opcodeByte, hmod,
    hreg, hrmBits, rmOf_encoded rm rest hrm, defaultOp_eq_some_iff.mpr rfl]

theorem assembleAt_encRmImm {s : Bool} {w : Width} {rm : RmOperand} {imm : Imm} (hrm : rm.wf = true)
    (himm : imm.fitsRm s w = true) (op : AluOp) (rest : List Byte) :
    assembleAt jz (encRmImm op.immCode s w rm imm ++ rest) = some (rmImmInstr op s w rm imm) := by
  obtain ⟨hmod, hop, hrmBits⟩ := fields_modRmByte rm op.immCode
  have hp : classify jz (opcodeByte 0b100000#6 (bitOfBool s) w) = .immToRm :=
    classify_of_selector_immToRm (selector_opcodeByte _ _ _)
  have himmOf : immOf (rmImmLen s w) (rm.dispBytes ++ (imm.encBytes ++ rest)) (dispLen rm.modBits rm.rmBits) = imm := by
    rw [dispLen_modBits_rmBits hrm, ← RmOperand.length_dispBytes, immOf_append,
      ← Laws.EncodedLength.immBytes_fitsRm imm s w himm, immOf_encBytes]
  simp [encRmImm, assembleAt_of_headerLen_two hp rfl, fieldsOf, assemble, dBit_opcodeByte, wBit_opcodeByte, hmod, hop,
    hrmBits, rmOf_encoded rm _ hrm, himmOf, immOp_eq_some_iff.mpr rfl]

theorem assembleAt_encAccImm {w : Width} {imm : Imm} (himm : imm.hasWidth w = true) (op : AluOp) (x : Bool)
    (rest : List Byte) :
    assembleAt jz (encAccImm op.accCode x w imm ++ rest) = some (accImmInstr op x w imm) := by
  have hsel := selector_opcodeByte op.accCode (bitOfBool x) w
  have hp := classify_of_selector_accCode (jz := jz) hsel
  simp [encAccImm, assembleAt_of_headerLen_one hp rfl, fieldsOf, assemble, hsel, ignoredBit, dBit_opcodeByte,
    wBit_opcodeByte, immOf_bytes_encBytes himm, accOp_eq_some_iff.mpr rfl]

/-- The fields of the short move's byte 0 are those it is made of (R80). -/
theorem fields_shortMoveByte (w : Width) (reg : RegNum) :
    (0b1011#4 ++ w.bit ++ reg.toBits : Byte).extractLsb' 4 4 = 0b1011#4 ∧
      (0b1011#4 ++ w.bit ++ reg.toBits : Byte).extractLsb' 3 1 = w.bit ∧
      (0b1011#4 ++ w.bit ++ reg.toBits : Byte).extractLsb' 0 3 = reg.toBits := by
  cases w <;> cases reg <;> decide

theorem assembleAt_encode_movRegImm {w : Width} {imm : Imm} (himm : imm.hasWidth w = true) (reg : RegNum)
    (rest : List Byte) :
    assembleAt jz (encode jz (.movRegImm w reg imm) ++ rest) = some (.movRegImm w reg imm) := by
  obtain ⟨hhigh, hw, hreg⟩ := fields_shortMoveByte w reg
  have hp := classify_of_highBits (jz := jz) hhigh
  rw [encode, List.cons_append, assembleAt_of_headerLen_one hp rfl, fieldsOf, assemble, hw, hreg, Width.ofBit_bit,
    RegNum.ofBits_toBits, immOf_bytes_encBytes himm]

theorem assembleAt_encode_jzRel8 (hjz : jzOpcodeAllowed jz = true) (disp : Byte) (rest : List Byte) :
    assembleAt jz (encode jz (.jzRel8 disp) ++ rest) = some (.jzRel8 disp) :=
  assembleAt_of_headerLen_one ((jzOpcodeAllowed_iff_classify jz).mp hjz) rfl (disp :: rest)

/-- A well-formed instruction is assembled again from its encoding, with any bytes behind it. -/
theorem assembleAt_encode {i : Instr} (hjz : jzOpcodeAllowed jz = true) (hwf : i.wf = true)
    (hhidden : i.hiddenBy jz = false) (rest : List Byte) : assembleAt jz (encode jz i ++ rest) = some i := by
  cases i with
  | movRmReg d w rm reg => exact assembleAt_encRmReg_regMem hwf d w reg rest
  | movRegImm w reg imm => exact assembleAt_encode_movRegImm hwf reg rest
  | addRmReg d w rm reg => exact assembleAt_encRmReg_default (op := .add) hwf (beq_eq_false_iff_ne.mp hhidden) reg rest
  | subRmReg d w rm reg => exact assembleAt_encRmReg_default (op := .sub) hwf (beq_eq_false_iff_ne.mp hhidden) reg rest
  | cmpRmReg d w rm reg => exact assembleAt_encRmReg_default (op := .cmp) hwf (beq_eq_false_iff_ne.mp hhidden) reg rest
  | addRmImm s w rm imm =>
    obtain ⟨hrm, himm⟩ := Bool.and_eq_true_iff.mp hwf
    exact assembleAt_encRmImm hrm himm .add rest
  | subRmImm s w rm imm =>
    obtain ⟨hrm, himm⟩ := Bool.and_eq_true_iff.mp hwf
    exact assembleAt_encRmImm hrm himm .sub rest
  | cmpRmImm s w rm imm =>
    obtain ⟨hrm, himm⟩ := Bool.and_eq_true_iff.mp hwf
    exact assembleAt_encRmImm hrm himm .cmp rest
  | addAccImm x w imm => exact assembleAt_encAccImm hwf .add x rest
  | subAccImm x w imm => exact assembleAt_encAccImm hwf .sub x rest
  | cmpAccImm x w imm => exact assembleAt_encAccImm hwf .cmp x rest
  | jzRel8 disp => exact assembleAt_encode_jzRel8 hjz disp rest

theorem decode_encode_append {i : Instr} (hjz : jzOpcodeAllowed jz = true) (hwf : i.wf = true)
    (hhidden : i.hiddenBy jz = false) (rest : List Byte) : decode jz (encode jz i ++ rest) = .ok (i, rest) := by
  have hlen := length_encode jz hwf
  refine decode_eq_ok_iff.mpr ⟨assembleAt_encode hjz hwf hhidden rest, ?_, ?_⟩
  · rw [List.length_append]
    omega
  · rw [List.drop_left' hlen]

end Sys2Proof
end

section
/-! From bytes to an instruction and back (spec/30_encoding.md R80, R90, R94, R103, R104): what is assembled is well-formed
and its encoding is the bytes it was read from. -/

namespace Sys2Proof

/-! ### The operands that are assembled -/

section
variable (mod : BitVec 2) (rm : BitVec 3) (tr : List Byte)

@[simp] theorem modBits_rmOf : (rmOf mod rm tr).modBits = mod := by
  unfold rmOf
  split_ifs with h3 h0 h6 h1
  · exact h3.symm
  · exact h0.symm
  · exact h0.symm
  · exact h1.symm
  · show 0b10#2 = mod
    bv_omega

@[simp] theorem rmBits_rmOf : (rmOf mod rm tr).rmBits = rm := by
  unfold rmOf
  split_ifs with h3 h0 h6 h1
  · exact RegNum.toBits_ofBits rm
  · exact h6.symm
  all_goals exact EaBase.toBits_ofBits rm

/-- The direct address is tested before the base table, so no decoded operand is [BP] without a displacement (R90). -/
@[simp] theorem wf_rmOf : (rmOf mod rm tr).wf = true := by
  unfold rmOf
  split_ifs with h3 h0 h6 h1
  · rfl
  · rfl
  · have hbp : EaBase.ofBits rm ≠ .bp := fun h => h6 ((EaBase.toBits_ofBits rm).symm.trans (congrArg EaBase.toBits h))
    simp [RmOperand.wf, hbp]
  · simp [RmOperand.wf]
  · simp [RmOperand.wf]

end

theorem hasWidth_immOf_bytes (w : Width) (tr : List Byte) (k : Nat) : (immOf w.bytes tr k).hasWidth w = true := by
  cases w <;> rfl

theorem fitsRm_immOf_rmImmLen (s : Bool) (w : Width) (tr : List Byte) (k : Nat) :
    (immOf (rmImmLen s w) tr k).fitsRm s w = true := by
  cases s <;> cases w <;> rfl

/-- What is assembled from a header's fields is well-formed. -/
theorem wf_of_assemble {f : Fields} {x : BitVec 1} {tr : List Byte} {i : Instr} (h : assemble f x tr = some i) :
    i.wf = true := by
  cases f with
  | immToReg w reg =>
    cases h
    exact hasWidth_immOf_bytes _ tr 0
  | regMem d w mod reg rm =>
    cases h
    exact wf_rmOf mod rm tr
  | immToRm s w mod op3 rm =>
    obtain ⟨op, -, rfl⟩ := Option.map_eq_some_iff.mp h
    simp [fitsRm_immOf_rmImmLen]
  | immToAcc op6 w =>
    obtain ⟨op, -, rfl⟩ := Option.map_eq_some_iff.mp h
    simp [hasWidth_immOf_bytes]
  | shortJump =>
    cases h
    rfl
  | default op6 d w mod reg rm =>
    obtain ⟨op, -, rfl⟩ := Option.map_eq_some_iff.mp h
    simp

/-! ### The bytes they were read from -/

theorem exists_eq_cons_cons {bs : List Byte} (h : 2 ≤ bs.length) : ∃ b0 b1 tl, bs = b0 :: b1 :: tl := by
  obtain ⟨b0, bs', rfl⟩ := List.exists_cons_of_length_pos (by omega : 0 < bs.length)
  rw [List.length_cons] at h
  obtain ⟨b1, tl, rfl⟩ := List.exists_cons_of_length_pos (by omega : 0 < bs'.length)
  exact ⟨b0, b1, tl, rfl⟩

theorem wordBytes_wordAt_prefix {bs : List Byte} (h : 2 ≤ bs.length) : wordBytes (wordAt bs 0) <+: bs := by
  obtain ⟨lo, hi, tl, rfl⟩ := exists_eq_cons_cons h
  exact ⟨tl, by simp [wordBytes, wordAt]⟩

theorem byteAt_prefix {bs : List Byte} (h : 1 ≤ bs.length) : [byteAt bs 0] <+: bs := by
  obtain ⟨b, tl, rfl⟩ := List.exists_cons_of_length_pos h
  exact ⟨tl, rfl⟩

/-- The displacement bytes of a decoded operand are those it was read from (R90). -/
theorem dispBytes_rmOf_prefix {mod : BitVec 2} {rm : BitVec 3} {tr : List Byte} (h : dispLen mod rm ≤ tr.length) :
    (rmOf mod rm tr).dispBytes <+: tr := by
  unfold rmOf
  split_ifs with h3 h0 h6 h1
  · exact List.nil_prefix
  · exact wordBytes_wordAt_prefix (by simpa [dispLen, h0, h6] using h)
  · exact List.nil_prefix
  · exact byteAt_prefix (by simpa [dispLen, h1] using h)
  · exact wordBytes_wordAt_prefix (by simpa [dispLen, h3, h0, h1] using h)

/-- The bytes of a decoded immediate are those it was read from (R94). -/
theorem encBytes_immOf_prefix {n : Nat} (hn : 1 ≤ n ∧ n ≤ 2) {tr : List Byte} (h : n ≤ tr.length) :
    (immOf n tr 0).encBytes <+: tr := by
  unfold immOf
  split_ifs with h1
  · exact byteAt_prefix (by omega)
  · exact wordBytes_wordAt_prefix (by omega)

/-- The displacement and the immediate behind it are the bytes they were read from (R94). -/
theorem dispBytes_append_encBytes_prefix {mod : BitVec 2} {rm : BitVec 3} {n : Nat} {tr : List Byte}
    (hn : 1 ≤ n ∧ n ≤ 2) (h : dispLen mod rm + n ≤ tr.length) :
    (rmOf mod rm tr).dispBytes ++ (immOf n tr (dispLen mod rm)).encBytes <+: tr := by
  obtain ⟨tl, htl⟩ := dispBytes_rmOf_prefix (mod := mod) (rm := rm) (tr := tr) (by omega)
  have hlen : (rmOf mod rm tr).dispBytes.length = dispLen mod rm := by simp
  have himm : immOf n tr (dispLen mod rm) = immOf n tl 0 := by
    conv_lhs => rw [← htl, ← hlen, immOf_append]
  have htotal := congrArg List.length htl
  rw [List.length_append, hlen] at htotal
  rw [himm]
  conv_rhs => rw [← htl]
  exact (List.prefix_append_right_inj _).mpr (encBytes_immOf_prefix hn (by omega))

/-- Byte 1 is made of the fields that a decoded operand keeps (R80). -/
theorem modRmByte_rmOf (b1 : Byte) (tr : List Byte) :
    modRmByte (rmOf (b1.extractLsb' 6 2) (b1.extractLsb' 0 3) tr) (b1.extractLsb' 3 3) = b1 := by
  rw [modRmByte, modBits_rmOf, rmBits_rmOf, modRegRmByte]

section
variable {b0 b1 : Byte} {op6 : BitVec 6} {tr : List Byte}

theorem encRmReg_prefix (hsel : selector b0 = op6)
    (hlen : dispLen (b1.extractLsb' 6 2) (b1.extractLsb' 0 3) ≤ tr.length) :
    encRmReg op6 (Direction.ofBit (b0.extractLsb' 1 1)) (Width.ofBit (b0.extractLsb' 0 1))
      (rmOf (b1.extractLsb' 6 2) (b1.extractLsb' 0 3) tr) (RegNum.ofBits (b1.extractLsb' 3 3)) <+: b0 :: b1 :: tr := by
  rw [encRmReg, Direction.bit_ofBit, RegNum.toBits_ofBits, modRmByte_rmOf, ← hsel, opcodeByte_selector]
  simpa [List.cons_prefix_cons] using dispBytes_rmOf_prefix hlen

theorem encRmImm_prefix {s : Bool} {w : Width} (hsel : selector b0 = 0b100000#6)
    (hs : boolOfBit (b0.extractLsb' 1 1) = s) (hw : Width.ofBit (b0.extractLsb' 0 1) = w)
    (hlen : dispLen (b1.extractLsb' 6 2) (b1.extractLsb' 0 3) + rmImmLen s w ≤ tr.length) :
    encRmImm (b1.extractLsb' 3 3) s w (rmOf (b1.extractLsb' 6 2) (b1.extractLsb' 0 3) tr)
      (immOf (rmImmLen s w) tr (dispLen (b1.extractLsb' 6 2) (b1.extractLsb' 0 3))) <+: b0 :: b1 :: tr := by
  rw [encRmImm, ← hs, bitOfBool_boolOfBit, modRmByte_rmOf, ← hw, ← hsel, opcodeByte_selector, hw, hs]
  simpa [List.cons_prefix_cons] using dispBytes_append_encBytes_prefix (rmImmLen_bounds s w) hlen

theorem encAccImm_prefix {w : Width} (hsel : selector b0 = op6) (hw : Width.ofBit (b0.extractLsb' 0 1) = w)
    (hlen : w.bytes ≤ tr.length) :
    encAccImm op6 (boolOfBit (ignoredBit b0)) w (immOf w.bytes tr 0) <+: b0 :: tr := by
  rw [encAccImm, bitOfBool_boolOfBit, ← hw, ← hsel, ignoredBit, opcodeByte_selector, hw]
  simpa [List.cons_prefix_cons] using encBytes_immOf_prefix (w.bytes_bounds) hlen

theorem encode_movRegImm_prefix {jz : Byte} {w : Width} (hhigh : b0.extractLsb' 4 4 = 0b1011#4)
    (hw : Width.ofBit (b0.extractLsb' 3 1) = w) (hlen : w.bytes ≤ tr.length) :
    encode jz (.movRegImm w (RegNum.ofBits (b0.extractLsb' 0 3)) (immOf w.bytes tr 0)) <+: b0 :: tr := by
  rw [encode, RegNum.toBits_ofBits, ← hw, Width.bit_ofBit, ← hhigh, shortMoveByte, hw]
  simpa [List.cons_prefix_cons] using encBytes_immOf_prefix (w.bytes_bounds) hlen

end

/-- What is assembled from a header and the bytes after it is encoded in those bytes. -/
theorem encode_prefix_of_assembleAt {jz : Byte} {bs : List Byte} {i : Instr} (h : assembleAt jz bs = some i)
    (hlen : i.length ≤ bs.length) : encode jz i <+: bs := by
  obtain ⟨b0, b1, tr, rfl⟩ := exists_eq_cons_cons (i.length_bounds.1.trans hlen)
  rw [Instr.length_of_assemble h] at hlen
  obtain ⟨hp, hhigh⟩ | ⟨hp, hsel⟩ | ⟨hp, hsel⟩ | hp | ⟨hp, hjz⟩ | ⟨hp, hjz⟩ := classify_cases jz b0 <;>
    simp only [headerOf, byteAt_cons_zero, byteAt_cons_succ, hp, fieldsOf, Fields.len, List.length_cons] at hlen
  · rw [assembleAt_of_headerLen_one hp rfl] at h
    cases h
    exact encode_movRegImm_prefix hhigh rfl (by rw [List.length_cons]; omega)
  · rw [assembleAt_of_headerLen_two hp rfl] at h
    cases h
    exact encRmReg_prefix hsel (by omega)
  · rw [assembleAt_of_headerLen_two hp rfl] at h
    obtain ⟨op, hop, rfl⟩ := Option.map_eq_some_iff.mp h
    rw [encode_rmImmInstr, ← immOp_eq_some_iff.mp hop]
    exact encRmImm_prefix hsel rfl rfl (by omega)
  · rw [assembleAt_of_headerLen_one hp rfl] at h
    obtain ⟨op, hop, rfl⟩ := Option.map_eq_some_iff.mp h
    rw [encode_accImmInstr, ← accOp_eq_some_iff.mp hop]
    exact encAccImm_prefix rfl rfl (by rw [List.length_cons]; omega)
  · rw [assembleAt_of_headerLen_one hp rfl] at h
    cases h
    exact ⟨tr, by simp [encode, hjz]⟩
  · rw [assembleAt_of_headerLen_two hp rfl] at h
    obtain ⟨op, hop, rfl⟩ := Option.map_eq_some_iff.mp h
    rw [encode_rmRegInstr]
    exact encRmReg_prefix (defaultOp_eq_some_iff.mp hop) (by omega)

/-- The short jump's predicate comes before DEFAULT, so no decoded instruction is one that it hides (R71). -/
theorem hiddenBy_eq_false_of_assembleAt {jz : Byte} {bs : List Byte} {i : Instr} (h : assembleAt jz bs = some i) :
    i.hiddenBy jz = false := by
  obtain ⟨hp, -⟩ | ⟨hp, -⟩ | ⟨hp, -⟩ | hp | ⟨hp, -⟩ | ⟨hp, hjz⟩ := classify_cases jz (byteAt bs 0) <;>
    rw [assembleAt, headerOf, hp] at h
  · cases h
    rfl
  · cases h
    rfl
  · obtain ⟨op, -, rfl⟩ := Option.map_eq_some_iff.mp h
    exact hiddenBy_rmImmInstr jz op _ _ _ _
  · obtain ⟨op, -, rfl⟩ := Option.map_eq_some_iff.mp h
    exact hiddenBy_accImmInstr jz op _ _ _
  · cases h
    rfl
  · obtain ⟨op, hop, rfl⟩ := Option.map_eq_some_iff.mp h
    rw [hiddenBy_rmRegInstr, ← defaultOp_eq_some_iff.mp hop, Direction.bit_ofBit, opcodeByte_selector]
    exact beq_eq_false_iff_ne.mpr hjz

/-- Bytes that decode are the encoding of a well-formed instruction that the `JZ_OPCODE` does not hide, and the bytes left
over. -/
theorem encode_of_decode {jz : Byte} {bs rest : List Byte} {i : Instr} (h : decode jz bs = .ok (i, rest)) :
    i.wf = true ∧ i.hiddenBy jz = false ∧ bs = encode jz i ++ rest := by
  obtain ⟨hasm, hlen, rfl⟩ := decode_eq_ok_iff.mp h
  have hwf := wf_of_assemble hasm
  refine ⟨hwf, hiddenBy_eq_false_of_assembleAt hasm, ?_⟩
  rw [← length_encode jz hwf]
  exact (List.prefix_iff_eq_append.mp (encode_prefix_of_assembleAt hasm hlen)).symm

end Sys2Proof

namespace Sys2Proof.Proofs

/-- Settles O15: the decoder assembles the instruction again and its length is that of the encoding. -/
theorem decodeOfEncode : Obligations.DecodeOfEncode := fun _ _ rest hjz hwf hhidden =>
  decode_encode_append hjz hwf hhidden rest

/-- Settles O16: the bytes that each pattern's fields and operands were read from are those the encoder writes. -/
theorem encodeOfDecode : Obligations.EncodeOfDecode := by
  intro jz bs rest i h
  obtain ⟨hwf, -, hbs⟩ := encode_of_decode h
  exact ⟨hwf, hbs⟩

/-- Settles O17: the slice is the instruction's encoding, which decodes to it with nothing behind. -/
theorem decodingASliceAgain : Obligations.DecodingASliceAgain := by
  intro jz bs rest i hjz h
  obtain ⟨hwf, hhidden, rfl⟩ := encode_of_decode h
  have hlen := length_encode jz hwf
  refine ⟨?_, List.drop_left' hlen, by rw [List.length_append, hlen]⟩
  rw [List.take_left' hlen, ← List.append_nil (encode jz i)]
  exact decode_encode_append hjz hwf hhidden []

end Sys2Proof.Proofs
end

section
/-! What a byte 0 begins and how long instructions are (spec/30_encoding.md R100, R101, R105). -/

namespace Sys2Proof

/-! ### Lengths from the header's bytes -/

/-- The r/m operand of an instruction that has a byte 1. -/
def Instr.rmOperand : Instr → Option RmOperand
  | .movRmReg _ _ rm _ | .addRmReg _ _ rm _ | .subRmReg _ _ rm _ | .cmpRmReg _ _ rm _ => some rm
  | .addRmImm _ _ rm _ | .subRmImm _ _ rm _ | .cmpRmImm _ _ rm _ => some rm
  | .movRegImm _ _ _ | .addAccImm _ _ _ | .subAccImm _ _ _ | .cmpAccImm _ _ _ | .jzRel8 _ => none

/-- An assembled r/m operand has the displacement bytes of mod and rm in byte 1 (R90, R100). -/
theorem dispLen_of_assemble {p : Pattern} {b0 b1 : Byte} {x : BitVec 1} {tr : List Byte} {i : Instr} {rm : RmOperand}
    (h : assemble (fieldsOf p b0 b1) x tr = some i) (hrm : i.rmOperand = some rm) :
    rm.dispLen = dispLen (b1.extractLsb' 6 2) (b1.extractLsb' 0 3) := by
  cases p with
  | immToReg => cases h; cases hrm
  | regMem => cases h; cases hrm; exact RmOperand.dispLen_rmOf _ _ _
  | immToRm =>
    obtain ⟨op, -, rfl⟩ := Option.map_eq_some_iff.mp h
    cases op <;> cases hrm <;> exact RmOperand.dispLen_rmOf _ _ _
  | immToAcc =>
    obtain ⟨op, -, rfl⟩ := Option.map_eq_some_iff.mp h
    cases op <;> cases hrm
  | shortJump => cases h; cases hrm
  | default =>
    obtain ⟨op, -, rfl⟩ := Option.map_eq_some_iff.mp h
    cases op <;> cases hrm <;> exact RmOperand.dispLen_rmOf _ _ _

/-- The displacement's length in terms of byte 1 as a number (R100). -/
theorem dispLen_extractLsb' (b1 : Byte) :
    dispLen (b1.extractLsb' 6 2) (b1.extractLsb' 0 3) =
      if b1.toNat / 64 = 3 then 0 else if b1.toNat / 64 = 0 then (if b1.toNat % 8 = 6 then 2 else 0)
      else if b1.toNat / 64 = 1 then 1 else 2 := by
  revert b1; decide

theorem one_add_bytes (w : Width) : 1 + w.bytes = if w = .word then 3 else 2 := by
  cases w <;> rfl

theorem rmImmLen_eq_ite (s : Bool) (w : Width) : rmImmLen s w = if s = false ∧ w = .word then 2 else 1 := by
  cases s <;> cases w <;> rfl

end Sys2Proof

namespace Sys2Proof.Machine

/-! ### The opcode map -/

/-- The mnemonic of an operation (R83). -/
def aluMnemonic : AluOp → Mnemonic
  | .add => .add
  | .sub => .sub
  | .cmp => .cmp

/-- The operation that a byte 0 and an op3 begin, if they begin one (R83, R105). -/
def beginsOp (jz b0 : Byte) (op3 : BitVec 3) : Option Mnemonic :=
  match classify jz b0 with
  | .immToReg | .regMem => some .mov
  | .immToRm => (immOp op3).map aluMnemonic
  | .immToAcc => (accOp (selector b0)).map aluMnemonic
  | .shortJump => some .jz
  | .default => (defaultOp (selector b0)).map aluMnemonic

@[simp] theorem mnemonicOf_rmRegInstr (op : AluOp) (d : Direction) (w : Width) (rm : RmOperand) (reg : RegNum) :
    mnemonicOf (rmRegInstr op d w rm reg) = aluMnemonic op := by cases op <;> rfl

@[simp] theorem mnemonicOf_rmImmInstr (op : AluOp) (s : Bool) (w : Width) (rm : RmOperand) (imm : Imm) :
    mnemonicOf (rmImmInstr op s w rm imm) = aluMnemonic op := by cases op <;> rfl

@[simp] theorem mnemonicOf_accImmInstr (op : AluOp) (x : Bool) (w : Width) (imm : Imm) :
    mnemonicOf (accImmInstr op x w imm) = aluMnemonic op := by cases op <;> rfl

/-- An instruction is assembled exactly where an operation begins, and it is one of that operation. -/
theorem map_mnemonicOf_assemble (jz b0 b1 : Byte) (x : BitVec 1) (tr : List Byte) :
    (assemble (fieldsOf (classify jz b0) b0 b1) x tr).map mnemonicOf = beginsOp jz b0 (b1.extractLsb' 3 3) := by
  unfold beginsOp
  cases classify jz b0 with
  | immToReg | regMem | shortJump => rfl
  | immToRm | immToAcc | default => simp [fieldsOf, assemble, Function.comp_def]

/-- Five bytes after byte 0 are enough for every instruction (R101), so that they decode where an operation begins. -/
theorem exists_decode_of_beginsOp {jz b0 : Byte} {tl : List Byte} {m : Mnemonic} (hlen : 5 ≤ tl.length)
    (h : beginsOp jz b0 ((byteAt tl 0).extractLsb' 3 3) = some m) :
    ∃ i rest, decode jz (b0 :: tl) = .ok (i, rest) ∧ mnemonicOf i = m := by
  rw [← map_mnemonicOf_assemble (x := ignoredBit b0) (tr := (b0 :: tl).drop (headerLen (classify jz b0)))] at h
  obtain ⟨i, hasm, hm⟩ := Option.map_eq_some_iff.mp h
  obtain ⟨-, hsix⟩ := i.length_bounds
  exact ⟨i, _, decode_eq_ok_iff.mpr ⟨hasm, by rw [List.length_cons]; omega, rfl⟩, hm⟩

theorem decode_of_noDefaultOp {jz b0 : Byte} (h : noDefaultOp jz b0 = true) (tl : List Byte) :
    decode jz (b0 :: tl) = .error ⟨.unknownOperation, 1⟩ := by
  rw [decode, if_neg (not_le_selector_toNat b0), if_pos h]

theorem decode_of_noImmOp {jz b0 : Byte} {tl : List Byte} (hp : classify jz b0 = .immToRm)
    (hop : immOp ((byteAt tl 0).extractLsb' 3 3) = none) (htl : tl ≠ []) :
    decode jz (b0 :: tl) = .error ⟨.unknownOperation, 2⟩ := by
  simp [decode, noDefaultOp, noImmOp, hp, hop, headerLen, not_le_selector_toNat, htl]

/-- op3 of byte 1 as a number (R80). -/
theorem toNat_op3 (b1 : Byte) : (b1.extractLsb' 3 3).toNat = b1.toNat / 8 % 8 := by
  revert b1; decide

theorem immOp_eq_of_toNat (op3 : BitVec 3) :
    (op3.toNat = 0 → immOp op3 = some .add) ∧ (op3.toNat = 5 → immOp op3 = some .sub) ∧
      (op3.toNat = 7 → immOp op3 = some .cmp) ∧ (op3.toNat ≠ 0 ∧ op3.toNat ≠ 5 ∧ op3.toNat ≠ 7 → immOp op3 = none) := by
  revert op3; decide

section
variable {b0 : Byte} (op3 : BitVec 3)

theorem beginsOp_add (h : b0.toNat ≤ 0x07) : beginsOp 0x74#8 b0 op3 = some .add := by
  revert b0 op3; decide

theorem beginsOp_sub (h : 0x28 ≤ b0.toNat ∧ b0.toNat ≤ 0x2F) : beginsOp 0x74#8 b0 op3 = some .sub := by
  revert b0 op3; decide

theorem beginsOp_cmp (h : 0x38 ≤ b0.toNat ∧ b0.toNat ≤ 0x3F) : beginsOp 0x74#8 b0 op3 = some .cmp := by
  revert b0 op3; decide

theorem beginsOp_jz (h : b0.toNat = 0x74) : beginsOp 0x74#8 b0 op3 = some .jz := by
  revert b0 op3; decide

theorem beginsOp_mov (h : (0x88 ≤ b0.toNat ∧ b0.toNat ≤ 0x8B) ∨ (0xB0 ≤ b0.toNat ∧ b0.toNat ≤ 0xBF)) :
    beginsOp 0x74#8 b0 op3 = some .mov := by
  revert b0 op3; decide

/-- Every byte 0 outside the map is one that DEFAULT's table does not know (R105). -/
theorem noDefaultOp_of_not_mapped (h : ¬ (b0.toNat ≤ 0x07 ∨ (0x28 ≤ b0.toNat ∧ b0.toNat ≤ 0x2F) ∨
    (0x38 ≤ b0.toNat ∧ b0.toNat ≤ 0x3F) ∨ b0.toNat = 0x74 ∨ (0x80 ≤ b0.toNat ∧ b0.toNat ≤ 0x83) ∨
    (0x88 ≤ b0.toNat ∧ b0.toNat ≤ 0x8B) ∨ (0xB0 ≤ b0.toNat ∧ b0.toNat ≤ 0xBF))) : noDefaultOp 0x74#8 b0 = true := by
  revert b0; decide

theorem classify_of_immToRm_byte (h : 0x80 ≤ b0.toNat ∧ b0.toNat ≤ 0x83) : classify 0x74#8 b0 = .immToRm := by
  revert b0; decide

end

end Sys2Proof.Machine

namespace Sys2Proof.Proofs
open Sys2Proof.Machine

/-- Settles O18: the length's account of each form, with the displacement length read from byte 1. -/
theorem instructionLengths : Obligations.InstructionLengths := by
  intro jz bs rest i h
  obtain ⟨hasm, -, -⟩ := decode_eq_ok_iff.mp h
  obtain ⟨htwo, hsix⟩ := i.length_bounds
  have hdisp (rm : RmOperand) (hrm : i.rmOperand = some rm) :=
    (dispLen_of_assemble hasm hrm).trans (dispLen_extractLsb' (byteAt bs 1))
  refine ⟨htwo, hsix, ?_, ?_, ?_, ?_, ?_⟩
  · rintro disp rfl
    rfl
  · rintro w reg imm rfl
    exact one_add_bytes w
  · rintro x w imm (rfl | rfl | rfl) <;> exact one_add_bytes w
  · rintro d w rm reg (rfl | rfl | rfl | rfl) <;> exact congrArg (2 + ·) (hdisp rm rfl)
  · rintro s w rm imm (rfl | rfl | rfl) <;>
      exact congrArg₂ (2 + · + ·) (hdisp rm rfl) (rmImmLen_eq_ite s w)

/-- Settles O19: an operation that begins decodes, since the bytes are there, and the two checks answer for the rest. -/
theorem opcodeMap : Obligations.OpcodeMap := by
  intro b0 tl hlen
  have gives {m : Mnemonic} (h : beginsOp 0x74#8 b0 ((byteAt tl 0).extractLsb' 3 3) = some m) :=
    exists_decode_of_beginsOp hlen h
  refine ⟨fun h => gives (beginsOp_add _ h), fun h => gives (beginsOp_sub _ h), fun h => gives (beginsOp_cmp _ h),
    fun h => gives (beginsOp_jz _ h), fun h => gives (beginsOp_mov _ (.inl h)), fun h => gives (beginsOp_mov _ (.inr h)),
    fun h => ?_, fun h => ?_⟩
  · have hp := classify_of_immToRm_byte h
    have himm {op : AluOp} (hop : immOp ((byteAt tl 0).extractLsb' 3 3) = some op) :=
      gives (m := aluMnemonic op) (by simp [beginsOp, hp, hop])
    obtain ⟨hadd, hsub, hcmp, hnone⟩ := immOp_eq_of_toNat ((byteAt tl 0).extractLsb' 3 3)
    rw [toNat_op3] at hadd hsub hcmp hnone
    exact ⟨fun h0 => himm (hadd h0), fun h5 => himm (hsub h5), fun h7 => himm (hcmp h7),
      fun hno => decode_of_noImmOp hp (hnone hno) (List.ne_nil_of_length_pos (by omega))⟩
  · exact decode_of_noDefaultOp (noDefaultOp_of_not_mapped h) tl

/-- Settles O14: each word runs through the decoder. -/
theorem specWordsDecode : Obligations.SpecWordsDecode := by
  refine ⟨?_, ?_, ?_, ?_, ?_, ?_⟩ <;> decide

end Sys2Proof.Proofs
end

section
/-! The instruction cycle: what a running state's step is, where ip and the cursor go, the trace record of an instruction,
and the flags updater (spec/40_execution.md R120 to R123, R128, R135, R136). -/

namespace Sys2Proof.Machine

variable {s t : State} {i : Instr}

/-! ### The step of a running state -/

theorem step_eq_exec_of_decode {rest : List Byte} (hl : s.launchProblem = none) (hr : s.status = .running)
    (hd : decode s.cfg.jzOpcode (s.streamFrom s.fetchAddr) = .ok (i, rest)) : step s = exec i s := by
  rw [step, State.fetch_of_running hl hr, State.fetchRunning_eq_run_iff.mpr ⟨rest, hd⟩]

theorem step_eq_halt_of_fetchAddr_eq (hl : s.launchProblem = none) (hr : s.status = .running)
    (hend : s.fetchAddr.toNat = s.code.length) : step s = .next s.halt := by
  rw [step, State.fetch_of_running hl hr, State.fetchRunning, if_pos hend]

theorem State.fetchAddr_eq_ite (s : State) :
    s.fetchAddr = if s.cfg.fetchMode = .linear then s.cursor else s.ip := by
  cases hm : s.cfg.fetchMode <;> simp [State.fetchAddr, hm]

/-! ### ip after an instruction -/

theorem State.toNat_nextAddr (s : State) (len : Nat) :
    (s.nextAddr len).toNat = (s.fetchAddr.toNat + len) % 65536 := by
  rw [State.nextAddr, BitVec.toNat_add, BitVec.toNat_ofNat, Nat.add_mod_mod]

/-- An instruction without a jump leaves ip at the address after it (R122). -/
theorem exec_ip_of_not_jz (hjz : ∀ disp, i ≠ .jzRel8 disp) (h : exec i s = .next t) : t.ip = s.nextAddr i.length := by
  cases sharedRule i with
  | arith w op dst src _ _ _ _ hexec =>
    cases (hexec s).symm.trans h
    simp [State.runArith]
  | cmp w dst src _ _ _ _ hexec =>
    cases (hexec s).symm.trans h
    simp [State.runCmp]
  | mov w dst src _ _ _ _ hexec =>
    cases (hexec s).symm.trans h
    simp [State.runMov]
  | jz disp hi => exact absurd hi (hjz disp)

theorem advance_zf (s : State) (len : Nat) : (s.advance len).zf = s.zf := by
  rw [State.zf_eq_getLsbD, State.zf_eq_getLsbD, advance_flags]

/-- JZ's target as a sum of numbers modulo 2^16, the displacement being signed (R190). -/
theorem exec_jzRel8_ip {disp : Byte} (h : exec (.jzRel8 disp) s = .next t) :
    (t.ip.toNat : Int) = ((s.fetchAddr.toNat : Int) + 2 + if s.zf then disp.toInt else 0) % 65536 := by
  cases h
  have hnext : (s.nextAddr 2).toNat = (s.fetchAddr.toNat + 2) % 65536 := s.toNat_nextAddr 2
  rw [emit_ip, jumpIfZero_ip, advance_zf, advance_ip, Instr.length]
  split
  · rw [toNat_add_eq_add_toInt_emod, toInt_sext16, hnext]
    omega
  · omega

/-- The cursor after an instruction in LINEAR, as a number (R33, R120). -/
theorem exec_cursor_toNat_of_linear (h : exec i s = .next t) (hm : s.cfg.fetchMode = .linear) :
    t.cursor.toNat = (s.fetchAddr.toNat + i.length) % 65536 := by
  obtain ⟨_, _, _, hcursor, _⟩ := exec_cycleKept h
  rw [hcursor, if_pos hm]
  exact s.toNat_nextAddr i.length

/-! ### The trace record of an instruction -/

/-- An instruction emits one record, its own, after those before it (R136). -/
theorem exec_trace (h : exec i s = .next t) : ∃ pre post, t.trace = s.trace ++ [s.record i pre post] := by
  cases sharedRule i with
  | arith w op dst src _ _ _ _ hexec =>
    cases (hexec s).symm.trans h
    exact ⟨_, _, congrArg (· ++ [_]) (by simp)⟩
  | cmp w dst src _ _ _ _ hexec =>
    cases (hexec s).symm.trans h
    exact ⟨_, _, congrArg (· ++ [_]) (by simp)⟩
  | mov w dst src _ _ _ _ hexec =>
    cases (hexec s).symm.trans h
    exact ⟨_, _, congrArg (· ++ [_]) (by simp)⟩
  | jz disp hi =>
    subst hi
    cases h
    exact ⟨_, _, congrArg (· ++ [_]) (by simp)⟩

/-- The record's bytes are the encoding of the instruction that the stream decodes to (R135). -/
theorem record_bytes_of_decode {rest : List Byte} (pre post : Value)
    (hd : decode s.cfg.jzOpcode (s.streamFrom s.fetchAddr) = .ok (i, rest)) :
    (s.record i pre post).bytes = encode s.cfg.jzOpcode i := by
  obtain ⟨hwf, -, hbs⟩ := encode_of_decode hd
  rw [State.record, hbs, List.take_left' (length_encode s.cfg.jzOpcode hwf)]

theorem exec_status (h : exec i s = .next t) : t.status = s.status := by
  obtain ⟨hstatus, _⟩ := exec_cycleKept h
  exact hstatus

end Sys2Proof.Machine

namespace Sys2Proof.Proofs
open Sys2Proof.Machine

/-- Settles O28: the cycle's own advance, and JZ's signed displacement on top of it. -/
theorem ipAndCursorAdvance : Obligations.IpAndCursorAdvance := by
  intro i s t h
  refine ⟨fun hjz => ?_, ?_, exec_cursor_toNat_of_linear h, exec_cursor_follow h⟩
  · rw [exec_ip_of_not_jz hjz h, s.toNat_nextAddr]
  · rintro disp rfl
    exact exec_jzRel8_ip h

/-- Settles O40: a halt or a fault ends the run and emits nothing, and an instruction keeps the run going and emits its
record, whose bytes are the encoding by the decoder's inverse. -/
theorem oneTraceRecordPerInstruction : Obligations.OneTraceRecordPerInstruction := by
  intro s t h
  obtain ⟨_, rfl⟩ | ⟨_, _, _, _, rfl⟩ | ⟨i, hi, hexec⟩ := step_cases h
  · exact ⟨fun _ => rfl, nofun⟩
  · exact ⟨fun _ => rfl, nofun⟩
  · obtain ⟨_, hr⟩ := running_of_step h
    obtain ⟨rest, hd⟩ := (fetch_eq_run_iff_of_step h).mp hi
    obtain ⟨pre, post, htrace⟩ := exec_trace hexec
    refine ⟨fun hend => absurd ((exec_status hexec).trans hr) hend, fun _ => ?_⟩
    exact ⟨i, rest, s.record i pre post, hd, htrace, rfl, record_bytes_of_decode pre post hd, rfl, rfl⟩

/-- Settles O6: the updater's bits in terms of the result as a number. -/
theorem flagsUpdaterIsWidthAware : Obligations.FlagsUpdaterIsWidthAware := by
  intro s w r
  obtain ⟨hzf, hsf, hrest⟩ := flagsOf_setFlags s w r
  refine ⟨hzf.trans (decide_eq_decide.mpr BitVec.toNat_eq), ?_, hrest, rfl⟩
  rw [hsf, ← BitVec.msb_eq_getLsbD_last, BitVec.msb_eq_decide]

/-- Settles O21: the running step runs what the stream decodes to, which is well-formed by the decoder's inverse. -/
theorem stepRunsTheDecodedInstruction : Obligations.StepRunsTheDecodedInstruction := by
  intro s i rest hl hr hd
  obtain ⟨hwf, -, -⟩ := encode_of_decode hd
  exact ⟨step_eq_exec_of_decode hl hr hd, hwf, s.fetchAddr_eq_ite⟩

/-- Settles O22: at the stream's end the running step is the halt, and the dump reads the eight registers. -/
theorem haltAtTheStreamsEnd : Obligations.HaltAtTheStreamsEnd := fun _ hl hr hend =>
  ⟨step_eq_halt_of_fetchAddr_eq hl hr hend, rfl⟩

end Sys2Proof.Proofs
end

section
/-! Both forms of MOV (spec/41_move.md R150, R151): their destination is a register or memory, never an immediate, which is
what the shared rule `State.runMov` asks of it. -/

namespace Sys2Proof.Machine

variable (s : State) (w : Width) (rm : RmOperand) (reg : RegNum)

theorem resolveRm_ne_imm (v : w.Val) : s.resolveRm w rm ≠ .imm v := by
  cases rm <;> exact nofun

theorem rmRegDst_ne_imm (d : Direction) (v : w.Val) : s.rmRegDst d w rm reg ≠ .imm v := by
  cases d with
  | toReg => exact nofun
  | toRm => exact resolveRm_ne_imm s w rm v

theorem exec_movRmReg_done (d : Direction) (hwf : Memory.wf s.mem = true) :
    ∃ t, exec (.movRmReg d w rm reg) s = .next t ∧
      MovDone (.movRmReg d w rm reg) s t (s.rmRegDst d w rm reg) (s.rmRegSrc d w rm reg)
        (s.operandValue (s.rmRegSrc d w rm reg)) := by
  have ops : OperandsOf (.movRmReg d w rm reg) (w := w) (·.rmRegDst d w rm reg) (·.rmRegSrc d w rm reg) :=
    operandsOf_rmReg rfl d reg
  exact ⟨_, rfl, runMov_done s _ _ _ (rmRegDst_ne_imm s w rm reg d) (ops.not_both_mem s) hwf⟩

theorem exec_movRegImm_done (imm : Imm) (hwf : Memory.wf s.mem = true) :
    ∃ t, exec (.movRegImm w reg imm) s = .next t ∧
      MovDone (w := w) (.movRegImm w reg imm) s t (.reg reg) (.imm (immVal w imm)) (immVal w imm) :=
  ⟨_, rfl, runMov_done s _ (.reg reg) (.imm (immVal w imm)) nofun nofun hwf⟩

end Sys2Proof.Machine

namespace Sys2Proof.Proofs
open Sys2Proof.Machine

/-- Settles O32: each form of MOV is the shared rule on its own operands, and `runMov_done` says what that rule leaves. -/
theorem movCompletes : Obligations.MovCompletes := fun s hwf =>
  ⟨fun d w rm reg => exec_movRmReg_done s w rm reg d hwf, fun w reg imm => exec_movRegImm_done s w reg imm hwf⟩

end Sys2Proof.Proofs
end

section
/-! ADD, SUB and CMP (spec/42_arithmetic.md R160 to R169): sums and differences modulo 2^N by either reading of the operands,
and each form as the shared rule `State.runArith` or `State.runCmp` on its own operands. -/

namespace Sys2Proof.Machine

/-! ### Sums and differences modulo 2^N (R169) -/

section
variable {n : Nat} (x y : BitVec n)

/-- The signed reading differs from the unsigned one by a multiple of 2^n. -/
theorem toNat_eq_toInt_emod : (x.toNat : Int) = x.toInt % (2 ^ n : Nat) := by
  rw [BitVec.toInt_eq_toNat_bmod, Int.bmod_emod, ← Int.natCast_emod, Nat.mod_eq_of_lt x.isLt]

theorem toNat_add_eq_toInt_add_emod : ((x + y).toNat : Int) = (x.toInt + y.toInt) % (2 ^ n : Nat) := by
  rw [toNat_eq_toInt_emod, BitVec.toInt_add, Int.bmod_emod]

theorem toNat_sub_eq_toInt_sub_emod : ((x - y).toNat : Int) = (x.toInt - y.toInt) % (2 ^ n : Nat) := by
  rw [toNat_eq_toInt_emod, BitVec.toInt_sub, Int.bmod_emod]

theorem toNat_sub_eq_toNat_sub_emod : ((x - y).toNat : Int) = ((x.toNat : Int) - y.toNat) % (2 ^ n : Nat) := by
  rw [toNat_sub_eq_toInt_sub_emod, Int.sub_emod, ← toNat_eq_toInt_emod, ← toNat_eq_toInt_emod]

end

/-! ### The forms as the shared rules -/

variable {s : State} {i : Instr} {w : Width} {dst src : State → Operand w}

/-- An instruction whose meaning is `State.runArith` completes with the result of that rule's operation. -/
theorem arithDone_of_exec_eq {op : w.Val → w.Val → w.Val} (ops : OperandsOf i dst src) (hdst : ∀ v, dst s ≠ .imm v)
    (hwf : Memory.wf s.mem = true) (hexec : exec i s = .next (s.runArith i op (dst s) (src s))) :
    ∃ t, exec i s = .next t ∧
      ArithDone i s t (dst s) (src s) (op (s.operandValue (dst s)) (s.operandValue (src s))) :=
  ⟨_, hexec, runArith_done s i op (dst s) (src s) hdst (ops.not_both_mem s) hwf⟩

/-- An instruction whose meaning is `State.runCmp` completes with the flags of the difference. -/
theorem cmpDone_of_exec_eq (ops : OperandsOf i dst src) (hexec : exec i s = .next (s.runCmp i (dst s) (src s))) :
    ∃ t, exec i s = .next t ∧
      CmpDone i s t (dst s) (src s) (s.operandValue (dst s) - s.operandValue (src s)) :=
  ⟨_, hexec, runCmp_done s i (dst s) (src s) (ops.not_both_mem s)⟩

end Sys2Proof.Machine

namespace Sys2Proof.Proofs
open Sys2Proof.Machine

/-- Settles O7: each sum and difference is that of the signed readings modulo 2^N, which the unsigned readings
equal modulo 2^N. -/
theorem arithmeticWrapsAtItsWidth : Obligations.ArithmeticWrapsAtItsWidth := by
  intro w a b
  refine ⟨BitVec.toNat_add a b, ?_, ?_, ?_⟩
  · exact_mod_cast toNat_sub_eq_toNat_sub_emod a b
  · exact_mod_cast toNat_add_eq_toInt_add_emod a b
  · exact_mod_cast toNat_sub_eq_toInt_sub_emod a b

/-- Settles O29: each form of ADD is `State.runArith` with `addN` on its own operands. -/
theorem addCompletes : Obligations.AddCompletes := by
  intro s hwf
  refine ⟨fun d w rm reg => ?_, fun sx w rm imm => ?_, fun x w imm => ?_⟩
  · exact arithDone_of_exec_eq (op := addN) (operandsOf_rmReg rfl d reg) (rmRegDst_ne_imm s w rm reg d) hwf rfl
  · exact arithDone_of_exec_eq (op := addN) (operandsOf_rmImm rfl (immVal w imm)) (resolveRm_ne_imm s w rm) hwf rfl
  · exact arithDone_of_exec_eq (op := addN) (operandsOf_regImm _ .r0 (immVal w imm)) nofun hwf rfl

/-- Settles O30: each form of SUB is `State.runArith` with `subN` on its own operands, the destination first. -/
theorem subCompletes : Obligations.SubCompletes := by
  intro s hwf
  refine ⟨fun d w rm reg => ?_, fun sx w rm imm => ?_, fun x w imm => ?_⟩
  · exact arithDone_of_exec_eq (op := subN) (operandsOf_rmReg rfl d reg) (rmRegDst_ne_imm s w rm reg d) hwf rfl
  · exact arithDone_of_exec_eq (op := subN) (operandsOf_rmImm rfl (immVal w imm)) (resolveRm_ne_imm s w rm) hwf rfl
  · exact arithDone_of_exec_eq (op := subN) (operandsOf_regImm _ .r0 (immVal w imm)) nofun hwf rfl

/-- Settles O31: each form of CMP is `State.runCmp` on its own operands. -/
theorem cmpCompletes : Obligations.CmpCompletes := by
  intro s
  refine ⟨fun d w rm reg => ?_, fun sx w rm imm => ?_, fun x w imm => ?_⟩
  · exact cmpDone_of_exec_eq (operandsOf_rmReg rfl d reg) rfl
  · exact cmpDone_of_exec_eq (operandsOf_rmImm rfl (immVal w imm)) rfl
  · exact cmpDone_of_exec_eq (operandsOf_regImm _ .r0 (immVal w imm)) rfl

end Sys2Proof.Proofs
end

section
/-! JZ (spec/43_control.md R190): what it leaves unchanged, and its record. -/

namespace Sys2Proof.Machine

variable {s t : State} {disp : Byte}

/-- Taken or not, the jump itself touches at most ip (R190); the rest of the frame is `exec_cycleKept`. -/
theorem exec_jzRel8_frame (h : exec (.jzRel8 disp) s = .next t) :
    t.regs = s.regs ∧ t.flags = s.flags ∧ t.mem = s.mem ∧ t.port = s.port := by
  cases h
  exact ⟨by simp, by simp, by simp, by simp⟩

/-- JZ's record has ip before and after the step (R135). -/
theorem exec_jzRel8_trace (h : exec (.jzRel8 disp) s = .next t) :
    t.trace = s.trace ++ [s.record (.jzRel8 disp) (.word s.ip) (.word t.ip)] := by
  cases h
  rw [emit_trace, emit_ip, jumpIfZero_trace, advance_trace]

end Sys2Proof.Machine

namespace Sys2Proof.Proofs
open Sys2Proof.Machine

/-- Settles O33: JZ always answers a next state, whose ip, frame and record are each what the lemmas about JZ say. -/
theorem jzCompletes : Obligations.JzCompletes := by
  intro s disp
  obtain ⟨t, h⟩ : ∃ t, exec (.jzRel8 disp) s = .next t := ⟨_, rfl⟩
  obtain ⟨hregs, hflags, hmem, hport⟩ := exec_jzRel8_frame h
  exact ⟨t, h, exec_jzRel8_ip h, hregs, hflags, memSame_of_mem s t hmem, exec_cycleKept h, hport, exec_jzRel8_trace h⟩

end Sys2Proof.Proofs
end

section
/-! The faults (spec/60_exceptions.md R200 to R208): which bytes have an operation, when decoding fails and how, the step
that raises a fault, and that execution raises none. -/

namespace Sys2Proof

variable {jz b0 : Byte}

/-! ### The operations that byte 0 and op3 begin, by their numbers -/

/-- The byte-0 values of the patterns with a one-byte header (R71, R84). -/
def OneByteHeader (jz b0 : Byte) : Prop :=
  b0 = jz ∨ b0.toNat ∈ [0x04, 0x05, 0x06, 0x07, 0x2C, 0x2D, 0x2E, 0x2F, 0x3C, 0x3D, 0x3E, 0x3F] ∨
    0xB0 ≤ b0.toNat ∧ b0.toNat ≤ 0xBF

/-- The byte-0 values of IMM_TO_RM (R71). -/
def ImmToRmByte (b0 : Byte) : Prop := 0x80 ≤ b0.toNat ∧ b0.toNat ≤ 0x83

/-- The byte-0 values of the operations with a two-byte header, some of which a `JZ_OPCODE` may hide (R83, R84). -/
def TwoByteHeader (b0 : Byte) : Prop :=
  b0.toNat ∈ [0x00, 0x01, 0x02, 0x03, 0x28, 0x29, 0x2A, 0x2B, 0x38, 0x39, 0x3A, 0x3B] ∨ ImmToRmByte b0 ∨
    0x88 ≤ b0.toNat ∧ b0.toNat ≤ 0x8B

/-- A header of IMM_TO_RM whose op3 has no operation (R83). -/
def BadOp3 (b0 b1 : Byte) : Prop :=
  ImmToRmByte b0 ∧ b1.toNat / 8 % 8 ≠ 0 ∧ b1.toNat / 8 % 8 ≠ 5 ∧ b1.toNat / 8 % 8 ≠ 7

/-- A byte 0 that is not the short jump's has the same pattern under every other `JZ_OPCODE`. -/
theorem classify_of_ne (h : b0 ≠ jz) : classify jz b0 = classify (~~~b0) b0 := by
  have hnot : b0 ≠ ~~~b0 := by clear h; revert b0; decide
  simp only [classify, h, hnot]

theorem noDefaultOp_of_ne (h : b0 ≠ jz) : noDefaultOp jz b0 = noDefaultOp (~~~b0) b0 := by
  rw [noDefaultOp, noDefaultOp, classify_of_ne h]

theorem oneByteHeader_iff (hjz : jzOpcodeAllowed jz = true) : OneByteHeader jz b0 ↔ headerLen (classify jz b0) = 1 := by
  by_cases h : b0 = jz
  · rw [h, (jzOpcodeAllowed_iff_classify jz).mp hjz]
    exact iff_of_true (.inl rfl) rfl
  · rw [classify_of_ne h, OneByteHeader, or_iff_right h]
    clear h
    revert b0; decide

theorem two_le_headerLen (hjz : jzOpcodeAllowed jz = true) (h : ¬ OneByteHeader jz b0) :
    2 ≤ headerLen (classify jz b0) := by
  have hone := mt (oneByteHeader_iff hjz).mpr h
  have hzero := headerLen_ne_zero (classify jz b0)
  omega

/-- Byte 0 has an operation, as far as it tells (R83): an allowed `JZ_OPCODE` is one with a one-byte header. -/
theorem noDefaultOp_eq_false_iff (hjz : jzOpcodeAllowed jz = true) :
    noDefaultOp jz b0 = false ↔ OneByteHeader jz b0 ∨ TwoByteHeader b0 := by
  by_cases h : b0 = jz
  · rw [h, noDefaultOp, (jzOpcodeAllowed_iff_classify jz).mp hjz]
    exact iff_of_true rfl (.inl (.inl rfl))
  · rw [noDefaultOp_of_ne h, OneByteHeader, or_iff_right h, TwoByteHeader, ImmToRmByte]
    clear h
    revert b0; decide

theorem selector_eq_immToRm_iff (b0 : Byte) : selector b0 = 0b100000#6 ↔ ImmToRmByte b0 := by
  unfold ImmToRmByte
  revert b0; decide

theorem classify_eq_immToRm_iff : classify jz b0 = .immToRm ↔ ImmToRmByte b0 := by
  rw [← selector_eq_immToRm_iff]
  refine ⟨fun h => ?_, classify_of_selector_immToRm⟩
  have hcases := classify_cases jz b0
  rw [h] at hcases
  simpa using hcases

theorem immOp_eq_none_iff (b1 : Byte) :
    immOp (b1.extractLsb' 3 3) = none ↔ b1.toNat / 8 % 8 ≠ 0 ∧ b1.toNat / 8 % 8 ≠ 5 ∧ b1.toNat / 8 % 8 ≠ 7 := by
  revert b1; decide

theorem noImmOp_iff {b1 : Byte} : noImmOp (classify jz b0) b1 = true ↔ BadOp3 b0 b1 := by
  rw [noImmOp, Bool.and_eq_true, beq_iff_eq, Option.isNone_iff_eq_none, classify_eq_immToRm_iff, immOp_eq_none_iff, BadOp3]

/-- A one-byte header holds no op3 (R80). -/
theorem noImmOp_of_headerLen_one {p : Pattern} (h : headerLen p = 1) (b1 : Byte) : noImmOp p b1 = false := by
  cases p with
  | regMem | immToRm | default => cases h
  | immToReg | immToAcc | shortJump => rfl

/-- A header that passes R208's checks of byte 0 and op3 has its operation. -/
theorem operations_of_header {b1 : Byte} (hjz : jzOpcodeAllowed jz = true)
    (h : OneByteHeader jz b0 ∨ TwoByteHeader b0 ∧ ¬ BadOp3 b0 b1) :
    noDefaultOp jz b0 = false ∧ noImmOp (classify jz b0) b1 = false := by
  obtain hone | ⟨htwo, hbad⟩ := h
  · exact ⟨(noDefaultOp_eq_false_iff hjz).mpr (.inl hone),
      noImmOp_of_headerLen_one ((oneByteHeader_iff hjz).mp hone) b1⟩
  · exact ⟨(noDefaultOp_eq_false_iff hjz).mpr (.inr htwo), eq_false_of_ne_true (mt noImmOp_iff.mp hbad)⟩

theorem exists_accOp_of_classify (h : classify jz b0 = .immToAcc) : ∃ op, accOp (selector b0) = some op := by
  unfold classify at h
  split_ifs at h with _ _ _ hacc
  obtain hadd | hsub | hcmp := hacc
  · exact ⟨.add, accOp_eq_some_iff.mpr hadd⟩
  · exact ⟨.sub, accOp_eq_some_iff.mpr hsub⟩
  · exact ⟨.cmp, accOp_eq_some_iff.mpr hcmp⟩

/-- Where the operation tables have an entry, an instruction is assembled (R83). -/
theorem exists_assemble {b1 : Byte} (hdefault : noDefaultOp jz b0 = false)
    (himm : noImmOp (classify jz b0) b1 = false) (x : BitVec 1) (tr : List Byte) :
    ∃ i, assemble (fieldsOf (classify jz b0) b0 b1) x tr = some i := by
  unfold noDefaultOp at hdefault
  unfold noImmOp at himm
  cases hp : classify jz b0 with
  | immToReg | regMem | shortJump => exact ⟨_, rfl⟩
  | immToAcc =>
    obtain ⟨op, hop⟩ := exists_accOp_of_classify hp
    exact ⟨_, Option.map_eq_some_iff.mpr ⟨op, hop, rfl⟩⟩
  | immToRm =>
    obtain ⟨op, hop⟩ := Option.isSome_iff_exists.mp (by simpa [hp] using himm)
    exact ⟨_, Option.map_eq_some_iff.mpr ⟨op, hop, rfl⟩⟩
  | default =>
    obtain ⟨op, hop⟩ := Option.isSome_iff_exists.mp (by simpa [hp] using hdefault)
    exact ⟨_, Option.map_eq_some_iff.mpr ⟨op, hop, rfl⟩⟩

/-! ### When decoding fails -/

/-- The fault that decoding raises is one of two kinds: the selector has six bits and no header is empty, so that the
defensive checks pass (R201, R202). -/
theorem kind_of_decode_error {bs : List Byte} {e : DecodeError} (h : decode jz bs = .error e) :
    e.kind = .unknownOperation ∨ e.kind = .streamExhaustion := by
  cases bs with
  | nil => cases h; exact .inr rfl
  | cons b0 tl =>
    simp only [decode, not_le_selector_toNat, headerLen_ne_zero, if_false] at h
    split_ifs at h
    · cases h; exact .inl rfl
    · cases h; exact .inr rfl
    · cases h; exact .inl rfl
    · unfold decodeFields at h
      split at h
      · cases h; exact .inr rfl
      · split at h
        · cases h
        · cases h; exact .inl rfl

theorem decode_error_of_noDefaultOp {bs : List Byte} (hne : 0 < bs.length) (h : noDefaultOp jz (byteAt bs 0) = true) :
    decode jz bs = .error ⟨.unknownOperation, 1⟩ := by
  cases bs with
  | nil => cases hne
  | cons b0 tl => exact Machine.decode_of_noDefaultOp h tl

theorem decode_error_of_badOp3 {bs : List Byte} (htwo : 2 ≤ bs.length) (h : BadOp3 (byteAt bs 0) (byteAt bs 1)) :
    decode jz bs = .error ⟨.unknownOperation, 2⟩ := by
  obtain ⟨b0, b1, tl, rfl⟩ := exists_eq_cons_cons htwo
  obtain ⟨hbyte, hop⟩ := h
  exact Machine.decode_of_noImmOp (classify_eq_immToRm_iff.mpr hbyte) ((immOp_eq_none_iff b1).mpr hop)
    (List.cons_ne_nil b1 tl)

/-- Bytes that end before the length of their header's fields are exhausted, all of them examined; so are those that end
inside the header, whose op3 is not looked at (R102, R203, R208). -/
theorem decode_error_of_length_lt {bs : List Byte} (hne : 0 < bs.length)
    (hdefault : noDefaultOp jz (byteAt bs 0) = false)
    (himm : headerLen (classify jz (byteAt bs 0)) ≤ bs.length →
      noImmOp (classify jz (byteAt bs 0)) (byteAt bs 1) = false)
    (hlen : bs.length < (headerOf jz bs).len) : decode jz bs = .error ⟨.streamExhaustion, bs.length⟩ := by
  cases bs with
  | nil => cases hne
  | cons b0 tl =>
    rw [byteAt_cons_zero] at hdefault himm
    simp only [decode, not_le_selector_toNat, headerLen_ne_zero, if_false, hdefault, Bool.false_eq_true]
    split_ifs with hheader hop3
    · rfl
    · cases hop3.symm.trans (himm (Nat.not_lt.mp hheader))
    · exact if_pos hlen

theorem decode_error_of_length_lt_headerLen {bs : List Byte} (hne : 0 < bs.length)
    (hdefault : noDefaultOp jz (byteAt bs 0) = false) (hcut : bs.length < headerLen (classify jz (byteAt bs 0))) :
    decode jz bs = .error ⟨.streamExhaustion, bs.length⟩ :=
  decode_error_of_length_lt hne hdefault (fun h => absurd hcut (Nat.not_lt.mpr h))
    (hcut.trans_le (headerLen_le_len _ _ _))

/-- Bytes with an operation and room for their header's fields decode to an instruction of that length (R100, R103). -/
theorem exists_decode_of_len_le {bs : List Byte} (hdefault : noDefaultOp jz (byteAt bs 0) = false)
    (himm : noImmOp (classify jz (byteAt bs 0)) (byteAt bs 1) = false) (hlen : (headerOf jz bs).len ≤ bs.length) :
    ∃ i rest, i.length = (headerOf jz bs).len ∧ decode jz bs = .ok (i, rest) := by
  obtain ⟨i, hasm⟩ := exists_assemble hdefault himm (ignoredBit (byteAt bs 0))
    (bs.drop (headerLen (classify jz (byteAt bs 0))))
  have hi : i.length = (headerOf jz bs).len := Instr.length_of_assemble hasm
  exact ⟨i, _, hi, decode_eq_ok_iff.mpr ⟨hasm, hi.trans_le hlen, rfl⟩⟩

end Sys2Proof

namespace Sys2Proof.Machine

variable {s t : State}

/-! ### The step that raises a fault -/

theorem step_eq_faultedAt_of_lt_fetchAddr (hl : s.launchProblem = none) (hr : s.status = .running)
    (hbeyond : s.code.length < s.fetchAddr.toNat) : step s = .next (faultedAt s .streamExhaustion 0) := by
  rw [step, State.fetch_of_running hl hr, State.fetchRunning, if_neg (by omega), if_pos hbeyond]
  rfl

theorem step_eq_faultedAt_of_decode {kind : FaultKind} {n : Nat} (hl : s.launchProblem = none) (hr : s.status = .running)
    (hin : s.fetchAddr.toNat < s.code.length)
    (hd : decode s.cfg.jzOpcode (s.code.drop s.fetchAddr.toNat) = .error ⟨kind, n⟩) :
    step s = .next (faultedAt s kind n) := by
  rw [step, State.fetch_of_running hl hr, State.fetchRunning, if_neg (by omega), if_neg (by omega), State.streamFrom, hd]
  rfl

/-- A fault is raised at the fetch address (R207). -/
theorem here_of_fetch_eq_raise {kind : FaultKind} {here : Word} {n : Nat} (hl : s.launchProblem = none)
    (hr : s.status = .running) (h : s.fetch = .raise kind here n) : here = s.fetchAddr := by
  rw [State.fetch_of_running hl hr, State.fetchRunning] at h
  split_ifs at h
  · cases h; rfl
  · split at h
    · cases h
    · cases h; rfl

/-- A step that ends in a fault took it at the fetch address: neither a halt nor an instruction gives that status. -/
theorem eq_raise_of_step_faulted {r : FaultRecord} (h : step s = .next t) (hf : t.status = .faulted r) :
    ∃ kind n, t = s.raise kind s.fetchAddr n := by
  obtain ⟨hl, hr⟩ := running_of_step h
  obtain ⟨_, rfl⟩ | ⟨kind, here, n, hraise, rfl⟩ | ⟨i, _, hexec⟩ := step_cases h
  · cases hf
  · exact ⟨kind, n, by rw [here_of_fetch_eq_raise hl hr hraise]⟩
  · cases (hf.symm.trans (exec_status hexec)).trans hr

/-! ### Execution -/

/-- Every instruction answers a next state, by the shared rule behind its meaning (R205). -/
theorem exists_exec_eq_next (i : Instr) (s : State) : ∃ t, exec i s = .next t := by
  cases sharedRule i with
  | arith w op dst src _ _ _ _ hexec => exact ⟨_, hexec s⟩
  | cmp w dst src _ _ _ _ hexec => exact ⟨_, hexec s⟩
  | mov w dst src _ _ _ _ hexec => exact ⟨_, hexec s⟩
  | jz disp hi =>
    subst hi
    exact ⟨_, rfl⟩

end Sys2Proof.Machine

namespace Sys2Proof.Proofs
open Sys2Proof.Machine

/-- Settles O20: the kinds that are left are other ones. -/
theorem defensiveFaultsUnreachable : Obligations.DefensiveFaultsUnreachable := by
  intro jz bs e h
  obtain hkind | hkind := kind_of_decode_error h
  · rw [hkind]; exact ⟨nofun, nofun⟩
  · rw [hkind]; exact ⟨nofun, nofun⟩

/-- Settles O24: each check's premise is the decoder's own, read by the numbers of byte 0 and op3. -/
theorem faultChecksInOrder : Obligations.FaultChecksInOrder := by
  intro s hl hr here room b0 op3 oneByteHeader immToRm twoByteHeader badOp3 len
  obtain ⟨hjz, -⟩ := s.launchProblem_eq_none_iff.mp hl
  have hroom : (s.code.drop here).length = room := List.length_drop
  have hop : noDefaultOp s.cfg.jzOpcode b0 = false ↔ oneByteHeader ∨ twoByteHeader := noDefaultOp_eq_false_iff hjz
  have raises {kind : FaultKind} {n : Nat} (hpos : 0 < room)
      (hd : decode s.cfg.jzOpcode (s.code.drop here) = .error ⟨kind, n⟩) : step s = .next (faultedAt s kind n) :=
    step_eq_faultedAt_of_decode hl hr (Nat.lt_of_sub_pos hpos) hd
  refine ⟨fun hbeyond => ?_, fun hin hnone hntwo => ?_, fun hroom1 hnone htwo => ?_, fun hroom2 _ hbad => ?_,
    fun hpos h hshort => ?_, fun _ h hfits => ?_⟩
  · exact step_eq_faultedAt_of_lt_fetchAddr hl hr hbeyond
  · have hpos : 0 < room := Nat.sub_pos_of_lt hin
    have hunknown : noDefaultOp s.cfg.jzOpcode b0 = true :=
      eq_true_of_ne_false fun h => (hop.mp h).elim hnone hntwo
    have hseen : [b0] = (s.code.drop here).take 1 := List.prefix_iff_eq_take.mp (byteAt_prefix (hroom ▸ hpos))
    rw [raises hpos (decode_error_of_noDefaultOp (hroom ▸ hpos) hunknown), hseen]
    rfl
  · have hcut : (s.code.drop here).length < headerLen (classify s.cfg.jzOpcode b0) := by
      rw [hroom, hroom1]
      exact two_le_headerLen hjz hnone
    exact raises (by omega) (hroom ▸ decode_error_of_length_lt_headerLen (by omega) (hop.mpr (.inr htwo)) hcut)
  · exact raises (by omega) (decode_error_of_badOp3 (hroom ▸ hroom2) hbad)
  · obtain ⟨hdefault, himm⟩ := operations_of_header hjz (h.imp_right And.right)
    exact raises hpos (hroom ▸ decode_error_of_length_lt (hroom ▸ hpos) hdefault (fun _ => himm) (hroom ▸ hshort))
  · obtain ⟨hdefault, himm⟩ := operations_of_header hjz (h.imp_right And.right)
    obtain ⟨i, rest, hi, hd⟩ := exists_decode_of_len_le hdefault himm (hroom ▸ hfits)
    exact ⟨i, hi, step_eq_exec_of_decode hl hr hd⟩

/-- Settles O25: such a step is the raise at the fetch address, which writes the status alone. -/
theorem faultsArePrecise : Obligations.FaultsArePrecise := by
  intro s t r h hf
  obtain ⟨hl, hr⟩ := running_of_step h
  obtain ⟨kind, n, rfl⟩ := eq_raise_of_step_faulted h hf
  obtain ⟨-, hstop⟩ := endedRunsTakeNoStep (s.raise kind s.fetchAddr n) hl
  cases hf
  exact ⟨rfl, hr, rfl, ⟨n, rfl⟩, hstop _ rfl⟩

/-- Settles O26: the instruction completes, and its cycle keeps the status. -/
theorem executionNeverFaults : Obligations.ExecutionNeverFaults := by
  intro i s
  obtain ⟨t, h⟩ := exists_exec_eq_next i s
  exact ⟨t, h, exec_status h⟩

/-- Settles O47: one case for each kind. -/
theorem faultCodes : Obligations.FaultCodes := by
  refine ⟨fun k => ?_, rfl, rfl, rfl, rfl⟩
  cases k with
  | rangeViolation => exact .inl rfl
  | unhandledPattern => exact .inr (.inl rfl)
  | unknownOperation => exact .inr (.inr (.inl rfl))
  | streamExhaustion => exact .inr (.inr (.inr rfl))

end Sys2Proof.Proofs
end

section
/-! Whole runs (spec/70_reset_and_hazards.md R235): in LINEAR the stream is used up and every run ends, in FOLLOW a taken
jump to itself repeats forever. -/

namespace Sys2Proof.Machine

variable {s t : State}

/-- A running state of a launch that is not refused always takes a step: a halt, a fault or an instruction (R120). -/
theorem exists_step_eq_next (hl : s.launchProblem = none) (hr : s.status = .running) : ∃ t, step s = .next t := by
  obtain hin | hend | hbeyond := Nat.lt_trichotomy s.fetchAddr.toNat s.code.length
  · cases hd : decode s.cfg.jzOpcode (s.streamFrom s.fetchAddr) with
    | ok r =>
      obtain ⟨t, ht⟩ := exists_exec_eq_next r.1 s
      exact ⟨t, (step_eq_exec_of_decode hl hr hd).trans ht⟩
    | error e => exact ⟨_, step_eq_faultedAt_of_decode hl hr hin hd⟩
  · exact ⟨_, step_eq_halt_of_fetchAddr_eq hl hr hend⟩
  · exact ⟨_, step_eq_faultedAt_of_lt_fetchAddr hl hr hbeyond⟩

/-- A step after which the run still runs has run an instruction: a halt and a fault end the run (R34). -/
theorem exec_of_step_running (h : step s = .next t) (hr : t.status = .running) :
    ∃ i, s.fetch = .run i ∧ exec i s = .next t := by
  obtain ⟨_, rfl⟩ | ⟨_, _, _, _, rfl⟩ | hrun := step_cases h
  · cases hr
  · cases hr
  · exact hrun

/-! ### LINEAR -/

/-- In LINEAR a step after which the run still runs has used up at least two bytes of the stream (R33, R101). -/
theorem cursor_add_two_le_of_step_running (h : step s = .next t) (hr : t.status = .running)
    (hm : s.cfg.fetchMode = .linear) :
    s.cursor.toNat + 2 ≤ t.cursor.toNat ∧ t.cursor.toNat ≤ s.code.length := by
  obtain ⟨i, hi, hexec⟩ := exec_of_step_running h hr
  obtain ⟨rest, hd⟩ := (fetch_eq_run_iff_of_step h).mp hi
  obtain ⟨hl, _⟩ := running_of_step h
  obtain ⟨hmove, hin⟩ := exec_cursor_linear hl hd hexec hm
  obtain ⟨htwo, _⟩ := i.length_bounds
  omega

/-- A LINEAR run ends: each step either ends it or leaves fewer bytes of the stream (R235). -/
theorem exists_run_ended_of_linear (s : State) (hl : s.launchProblem = none) (hr : s.status = .running)
    (hm : s.cfg.fetchMode = .linear) :
    ∃ k t, k ≤ (s.code.length - s.cursor.toNat) / 2 + 1 ∧ Sys2Proof.core.run k s = .next t ∧ t.status ≠ .running := by
  obtain ⟨t, h⟩ := exists_step_eq_next hl hr
  by_cases hrt : t.status = .running
  · obtain ⟨hcode, hcfg⟩ := step_launchData h
    obtain ⟨hmove, hin⟩ := cursor_add_two_le_of_step_running h hrt hm
    obtain ⟨k, u, hk, hrun, hu⟩ :=
      exists_run_ended_of_linear t (by rw [State.launchProblem_congr hcode hcfg, hl]) hrt (by rw [hcfg, hm])
    rw [hcode] at hk
    exact ⟨k + 1, u, by omega, (Core_run_succ Sys2Proof.core s t k h).trans hrun, hu⟩
  · exact ⟨1, t, by omega, Core_run_succ Sys2Proof.core s t 0 h, hrt⟩
termination_by s.code.length - s.cursor.toNat
decreasing_by
  rw [hcode]
  omega

/-! ### FOLLOW -/

/-- The taken jump of displacement -2 undoes the cycle's own advance over its two bytes (R122, R190). -/
theorem jumpIfZero_advance_two (hm : s.cfg.fetchMode = .follow) (hz : s.zf = true) :
    (s.advance 2).jumpIfZero 0xFE#8 = s := by
  have hback : s.nextAddr 2 + sext16 0xFE#8 = s.ip := by
    rw [State.nextAddr, State.fetchAddr, hm, BitVec.add_assoc]
    exact BitVec.add_zero s.ip
  rw [State.jumpIfZero, if_pos ((advance_zf s 2).trans hz), advance_ip, hback, State.advance, hm]

/-- The trace record of a taken jump to itself: ip is the same before and after it (R135). -/
def State.selfJumpRecord (s : State) : TraceRecord := s.record (.jzRel8 0xFE#8) (.word s.ip) (.word s.ip)

/-- A taken jump to itself emits its record and changes nothing else. -/
theorem exec_selfJump (hm : s.cfg.fetchMode = .follow) (hz : s.zf = true) :
    exec (.jzRel8 0xFE#8) s = .next (s.emit s.selfJumpRecord) := by
  rw [exec, execJzRel8, Instr.length, jumpIfZero_advance_two hm hz]
  rfl

theorem step_selfJump {rest : List Byte} (hl : s.launchProblem = none) (hr : s.status = .running)
    (hm : s.cfg.fetchMode = .follow) (hz : s.zf = true)
    (hcode : s.code.drop s.ip.toNat = s.cfg.jzOpcode :: 0xFE#8 :: rest) :
    step s = .next (s.emit s.selfJumpRecord) := by
  obtain ⟨hjz, _⟩ := s.launchProblem_eq_none_iff.mp hl
  have hd : decode s.cfg.jzOpcode (s.streamFrom s.fetchAddr) = .ok (.jzRel8 0xFE#8, rest) := by
    rw [State.streamFrom, State.fetchAddr, hm, hcode]
    exact decode_encode_append (i := .jzRel8 0xFE#8) hjz rfl rfl rest
  rw [step_eq_exec_of_decode hl hr hd, exec_selfJump hm hz]

/-- k steps of a taken jump to itself emit the same record k times and change nothing else. -/
theorem run_selfJump {rest : List Byte} (hl : s.launchProblem = none) (hr : s.status = .running)
    (hm : s.cfg.fetchMode = .follow) (hz : s.zf = true)
    (hcode : s.code.drop s.ip.toNat = s.cfg.jzOpcode :: 0xFE#8 :: rest) (k : Nat) :
    Sys2Proof.core.run k s = .next { s with trace := s.trace ++ List.replicate k s.selfJumpRecord } := by
  induction k generalizing s with
  | zero => rw [List.replicate_zero, List.append_nil]; rfl
  | succ k ih =>
    have hrun := ih (s := s.emit s.selfJumpRecord) hl hr hm hz hcode
    rw [Core_run_succ Sys2Proof.core s _ k (step_selfJump hl hr hm hz hcode), hrun, List.replicate_succ,
      List.append_cons]
    rfl

end Sys2Proof.Machine

namespace Sys2Proof.Proofs
open Sys2Proof.Machine

/-- Settles O45, by recursion on the bytes that remain of the stream. -/
theorem linearRunsEnd : Obligations.LinearRunsEnd := fun s hinv => exists_run_ended_of_linear s hinv.launchOk

/-- Settles O46: the run repeats one step, which emits one record and changes nothing else. -/
theorem takenSelfJumpNeverEnds : Obligations.TakenSelfJumpNeverEnds := by
  intro s rest hl hr hm hz hcode k
  refine ⟨_, run_selfJump hl hr hm hz hcode k, hr, rfl, rfl, rfl, rfl, ?_⟩
  rw [List.length_append, List.length_replicate]

end Sys2Proof.Proofs
end
